-- ==== Sys2Proof/Word.lean ====
section
/-! DEFINITION. The words and the instants of the Pelkara 740: bytes of frames and messages, 24-bit event
words, 32-bit digests, sets of positions, and instants in whole microseconds. -/

namespace Sys2Proof

/-- A character of a frame or of a reference message (R20, R172). -/
abbrev Byte := BitVec 8

/-- The event latches and the enable mask: event n is bit n-1 (R183). -/
abbrev Word24 := BitVec 24

/-- A digest, and a UTC minute number as a frame carries it (R64, R176). -/
abbrev Word32 := BitVec 32

/-- A set of positions 0-7, position p in bit p (R176). -/
abbrev PosSet := BitVec 8

/-- An instant, in whole microseconds on the unit's oscillator (DESIGN CHOICE, log 1). -/
abbrev Instant := Nat

end Sys2Proof
end

