-- ==== Sys2Proof/Config.lean ====
section
/-! DEFINITION. What the manual leaves to the implementation. Each constant here is opaque: it has no body, nothing
in Lean can find out its value, and a claim about the machine holds whatever the value is. -/

namespace Sys2Proof

/-- The order of the two parts of the KYL filter of R127, which the rule does not give: whether short releases are
bridged before short assertions are dropped (yes) or after (no). Log 7. -/
opaque Config.kylBridgesFirst : Bool

/-- Whether an offset of this many microseconds, which is no whole number of tenths of a millisecond, is recorded as
the tenth above it (yes) or below it (no): R88 gives the unit of the record and not the rounding. Log 9. -/
opaque Config.offsetRoundsUp : Int → Bool

/-- At the n-th own edge that is a freeze and at which the key state changes: whether the freeze is taken before the
change (R61 leaves the order open). Log 10. -/
opaque Config.freezeBeforeKeyChange : Nat → Bool

/-- Whether a unit that has had no hand-over since its last power-on, RSTN or RESTART has flag standing from the draft it
holds, as the definition of R81 and Table 10.2 give it (yes), or none until that hand-over, as a later sentence of R81
gives it (no). The two differ in the windows from a first freeze to the boundary that follows it. Log 36. -/
opaque Config.standingBeforeHandOver : Bool

end Sys2Proof
end

