-- ==== Sys2Proof/Syntax.lean ====
section
/-! DEFINITION. The commands of the block: one constructor of `Instr` for each row of spec/opcode_table.json, with
the operands that the outside of the unit determines. An event whose instant the state fixes carries no instant
(logs 1, 2). -/

namespace Sys2Proof

/-- The strap pins as they stand when they are sampled (R166, Table 10.1). -/
structure StrapPins where
  pos : BitVec 3
  prec : BitVec 2
  roll : BitVec 3
  zofs : BitVec 7
  lord : Bool
  deriving DecidableEq, Repr

/-- The levels of KYL, KYA and KYR: `true` is asserted (R2). -/
structure KeyingLines where
  kyl : Bool
  kya : Bool
  kyr : Bool
  deriving DecidableEq, Repr

/-- What the OTHER units drive on the concord bus in a cell: whether one of them pulls CCA low, and whether one of
them drives CCO (R70). -/
structure OthersDrive where
  pullCca : Bool
  driveCco : Bool
  deriving DecidableEq, Repr

/-- The body of DESC WRITE, byte by byte (R177, Table 11.5). -/
structure DescBody where
  index : Byte
  annId : Byte
  segNo : Byte
  lastSeg : Byte
  repeats : Byte
  endFlag : Byte
  next : Byte
  cueCount : Byte
  cue1Second : Byte
  cue1Value : Byte
  cue2Second : Byte
  cue2Value : Byte
  payload : Vector Byte 48
  deriving DecidableEq, Repr

/-- The commands of the controller link, each with the values of its request body (Table 11.4). -/
inductive Request where
  | statusRead
  | eventsRead
  | eventsClear (mask : Word24)
  | eventsEnable (mask : Word24)
  | peersRead
  | concordRead
  | airlogRead
  | descWrite (body : DescBody)
  | descHand (index : Byte)
  | descRecall (index : Byte)
  | descRead (index : Byte)
  | laneStart (lane head spacing report : Byte)
  | laneStop (lane : Byte)
  | laneResume (lane : Byte)
  | laneClear (lane : Byte)
  | zoneAdd (start : Word32) (state : Byte)
  | zoneRemove (start : Word32)
  | zoneRead
  | requestSet (steady quiet : Byte)
  | keyYield
  | readmit
  | restart
  deriving DecidableEq, Repr

/-- One constructor per row of spec/opcode_table.json, in the table's order. -/
inductive Instr where
  /-- POWER_ON, R165. -/
  | powerOn
  /-- RSTN_ASSERT, R165. -/
  | rstnAssert
  /-- RSTN_RELEASE, R165. -/
  | rstnRelease
  /-- SUPPLY_LOSS, R165. -/
  | supplyLoss
  /-- START_INTERVAL_END, R166 and R167: the instant and the strap pins. -/
  | startIntervalEnd (at_ : Instant) (pins : StrapPins)
  /-- REFP_EDGE, R22: the instant of the edge. -/
  | refpEdge (at_ : Instant)
  /-- REFERENCE_MESSAGE, R21: the ninth character. -/
  | referenceMessage (ninth : Byte)
  /-- REFD_FRAMING_ERROR, R20. -/
  | refdFramingError
  /-- MESSAGE_WINDOW_EXPIRY, R20. -/
  | messageWindowExpiry
  /-- NOTIONAL_REFERENCE_SECOND, R22. -/
  | notionalReferenceSecond
  /-- OWN_EDGE, R24. -/
  | ownEdge
  /-- REALIGN, R30. -/
  | realign
  /-- TICK_START, R125. -/
  | tickStart
  /-- STROBE_END, R2. -/
  | strobeEnd
  /-- KYL_READBACK, R113. -/
  | kylReadback
  /-- CUS_PULSE_END, R140. -/
  | cusPulseEnd
  /-- OWN_WINDOW_START, R71. -/
  | ownWindowStart
  /-- LATE_SYNC, R72. -/
  | lateSync
  /-- SYNC_DRIVE_END, R72. -/
  | syncDriveEnd
  /-- SYNC_EDGE_OBSERVED, R73: the instant of the rising edge of CCO. -/
  | syncEdgeObserved (at_ : Instant)
  /-- DEAD_WINDOW, R74. -/
  | deadWindow
  /-- CELL_DRIVE_START, R73. -/
  | cellDriveStart
  /-- HOLD_CELL_SAMPLE, R113: a PRESENT or HOLD cell. -/
  | holdCellSample (others : OthersDrive)
  /-- SHADOW_SAMPLE, R82. -/
  | shadowSample (others : OthersDrive)
  /-- FLAG_CELL_SAMPLE, R83: the STEADY, QUIET or YIELD cell. -/
  | flagCellSample (others : OthersDrive)
  /-- VACANCY, R107. -/
  | vacancy
  /-- DIGEST_CELL_SAMPLE, R87. -/
  | digestCellSample (others : OthersDrive)
  /-- PASS_RESULT, R92. -/
  | passResult
  /-- ASSENT_CELL_SAMPLE, R93. -/
  | assentCellSample (others : OthersDrive)
  /-- PASS_DECISION, R94. -/
  | passDecision
  /-- BIDDING_SAMPLE, R112. -/
  | biddingSample (others : OthersDrive)
  /-- BIDVALUE_CELL_SAMPLE, R109. -/
  | bidvalueCellSample (others : OthersDrive)
  /-- WINDOW_CLOSE, R88. -/
  | windowClose
  /-- CLI_FRAME, R174: the characters of a whole request frame. -/
  | cliFrame (bytes : List Byte)
  /-- CLI_FRAMING_ERROR, R173. -/
  | cliFramingError
  /-- CLI_LENGTH_OVERRUN, R173: the length character. -/
  | cliLengthOverrun (length : Byte)
  /-- CLI_GAP_TIMEOUT, R173. -/
  | cliGapTimeout
  /-- RESPONSE_END, R175: the instant at which the last stop bit ends. -/
  | responseEnd (at_ : Instant)
  /-- STATUS_READ, R179. -/
  | statusRead
  /-- EVENTS_READ, R184. -/
  | eventsRead
  /-- EVENTS_CLEAR, R184. -/
  | eventsClear (mask : Word24)
  /-- EVENTS_ENABLE, R184. -/
  | eventsEnable (mask : Word24)
  /-- PEERS_READ, R180. -/
  | peersRead
  /-- CONCORD_READ, R180. -/
  | concordRead
  /-- AIRLOG_READ, R181. -/
  | airlogRead
  /-- DESC_WRITE, R144. -/
  | descWrite (body : DescBody)
  /-- DESC_HAND, R145. -/
  | descHand (index : Byte)
  /-- DESC_RECALL, R146. -/
  | descRecall (index : Byte)
  /-- DESC_READ, R147. -/
  | descRead (index : Byte)
  /-- LANE_START, R160. -/
  | laneStart (lane head spacing report : Byte)
  /-- LANE_STOP, R161. -/
  | laneStop (lane : Byte)
  /-- LANE_RESUME, R161. -/
  | laneResume (lane : Byte)
  /-- LANE_CLEAR, R162. -/
  | laneClear (lane : Byte)
  /-- ZONE_ADD, R47: the instant (a UTC minute number) and the new state. -/
  | zoneAdd (start : Word32) (state : Byte)
  /-- ZONE_REMOVE, R48. -/
  | zoneRemove (start : Word32)
  /-- ZONE_READ, R49. -/
  | zoneRead
  /-- REQUEST_SET, R86. -/
  | requestSet (steady quiet : Byte)
  /-- KEY_YIELD, R111. -/
  | keyYield
  /-- READMIT, R118. -/
  | readmit
  /-- RESTART, R170. -/
  | restart
  /-- REFD_CHARACTER, R20. -/
  | refdCharacter (char : Byte)
  /-- CLI_CHARACTER, R173. -/
  | cliCharacter (char : Byte)
  /-- KEYING_BUS_CHANGE, R127: the instant, and the levels as the other units now drive them. -/
  | keyingBusChange (at_ : Instant) (peer : KeyingLines)
  deriving DecidableEq, Repr

end Sys2Proof
end

