-- ==== Sys2Proof/WellFormed.lean ====
section
/-! DEFINITION. What makes a command well-formed. The types of the operands settle almost everything (a body value
out of range is a command the unit answers, R176); three rows carry characters that their own name restricts. -/

namespace Sys2Proof

/-- The characters of CLI_FRAME are a whole request frame: a code, a body length L of at most 64, L body bytes and a
check byte (R172, Table 11.1). The check byte need not be right: the unit checks it (R174). -/
def Instr.wholeFrame (bytes : List Byte) : Bool :=
  match bytes with
  | _ :: len :: rest => decide (len.toNat ≤ 64) && decide (rest.length = len.toNat + 1)
  | _ => false

/-- A length character that CLI_LENGTH_OVERRUN can carry: above 64 (R173). -/
def Instr.overrunLength (len : Byte) : Bool := decide (64 < len.toNat)

/-- A command is well-formed. -/
def Instr.wf : Instr → Bool
  | .cliFrame bytes => Instr.wholeFrame bytes
  | .cliLengthOverrun len => Instr.overrunLength len
  | _ => true

end Sys2Proof
end

