-- ==== Sys2Proof/Decode.lean ====
section
/-! DEFINITION. The command that a table word spells. No row of spec/opcode_table.json gives any bits (every row's
"fields" is empty and none has "fixed"), so no word spells a command. -/

namespace Sys2Proof

/-- No row gives bits: no word of any length spells a command. -/
def decodeTableWord (_nbits _w : Nat) : Option Instr := none

end Sys2Proof
end

