-- ==== Sys2Proof/Machine/State.lean ====
section
/-! DEFINITION. The state of one 740 unit, block by block, as plain data, and the state right after POWER_ON.
Field names are the manual's; the rule that names a piece of state stands beside it. -/

namespace Sys2Proof.Machine

/-- The manual names no stop of the unit: what goes wrong is a status, an event or a state. No constructor. -/
inductive Fault where
  deriving DecidableEq, Repr

/-- Why a step can be refused. -/
inductive Refusal where
  /-- Raised by `exec`'s arm of a command that has no meaning yet; none is left. Safe. -/
  | notModelled (mnemonic : String)
  deriving DecidableEq, Repr

/-! ### Supply, RSTN and straps (chapter 10) -/

/-- The supply, the RSTN pin and the start interval (R165). -/
structure Power where
  supply : Bool
  rstnLow : Bool
  starting : Bool
  deriving DecidableEq, Repr

/-- Lane order strap (R149). -/
inductive LaneOrder where
  | fixed | rotate
  deriving DecidableEq, Repr

/-- The strap values held from the sample on (R166). `roll` is N, `offset` is clamped (R37). -/
structure Straps where
  position : Fin 8
  precedence : Fin 4
  roll : Nat
  offset : Int
  order : LaneOrder
  deriving DecidableEq, Repr

/-! ### Reference tracker (chapter 2) -/

/-- Reference states, in the order of Table 2.2. -/
inductive RefState where
  | acquiring | locked | holdover | stepping | expired
  deriving DecidableEq, Repr

/-- Leap plan (2.5). -/
inductive LeapPlan where
  | none | insert | delete
  deriving DecidableEq, Repr

/-- A UTC second: day number from 2000-01-01, and second of the day, 86400 for an inserted leap second (R21). -/
structure UtcTime where
  day : Nat
  secondOfDay : Nat
  deriving DecidableEq, Repr

/-- A value of the UTC count: minute number, and second within the minute (R25). -/
structure CountTime where
  minute : Nat
  second : Nat
  deriving DecidableEq, Repr

/-- An own second edge, with the time the count gave its second, if it gave one (R23). -/
structure EdgeMark where
  instant : Instant
  time : Option CountTime
  deriving DecidableEq, Repr

/-- A judged reference second: its instant, its reference time if it has one, and its plan (R22). -/
structure RefSecond where
  instant : Instant
  time : Option UtcTime
  plan : LeapPlan
  deriving DecidableEq, Repr

/-- An open message: the REFP edge it describes and the characters taken so far (R20). -/
structure OpenMessage where
  edge : Instant
  chars : List Byte
  deriving DecidableEq, Repr

/-- The reference tracker (2.3 to 2.5, R24 to R36). -/
structure Tracker where
  refState : RefState
  countValid : Bool
  minute : Nat
  second : Nat
  anchor : Instant
  lastEdge : Instant
  byOscillator : Bool
  accepted : Option Instant
  validAtEdge : Bool
  marks : List EdgeMark
  prevRef : Option RefSecond
  openMsg : Option OpenMessage
  goodRun : Nat
  badRun : Nat
  stepConf : Nat
  armed : Bool
  realignDue : Bool
  stepOrigin : RefState
  holdover : Nat
  plan : LeapPlan
  planFrozen : Bool
  deriving DecidableEq, Repr

/-! ### Zone table (chapter 3) -/

/-- Zone states (R37). -/
inductive ZoneState where
  | standard | summer
  deriving DecidableEq, Repr

/-- A zone table entry: its UTC minute number and its new state (3.2). -/
structure ZoneEntry where
  start : Nat
  state : ZoneState
  deriving DecidableEq, Repr

/-! ### Message store and lanes (chapter 9) -/

/-- A descriptor index (R142). -/
abbrev DescIndex := Fin 128

/-- A lane number (9.2). -/
abbrev LaneNo := Fin 4

/-- Who may change a descriptor (R142). -/
inductive Owner where
  | controller | generator
  deriving DecidableEq, Repr

/-- A cue entry: a second 1-56 and a value 1-15 (Table 9.1). -/
structure Cue where
  second : Nat
  value : Nat
  deriving DecidableEq, Repr

/-- A descriptor (R142, Table 9.1). -/
structure Descriptor where
  owner : Owner
  claim : Option LaneNo
  annId : Nat
  segNo : Nat
  lastSeg : Nat
  repeats : Nat
  endFlag : Bool
  link : Option DescIndex
  cues : List Cue
  payload : List Byte
  aired : Nat
  deriving DecidableEq, Repr

/-- Lane states, in the order of Table 9.3. -/
inductive LaneState where
  | stopped | running | waiting | starved | faulted
  deriving DecidableEq, Repr

/-- When ANNOUNCE_DONE is raised (Table 9.2). -/
inductive ReportPoint where
  | frozen | aired
  deriving DecidableEq, Repr

/-- A lane (R148, Table 9.2). `repeats = none` is "not taken". -/
structure Lane where
  state : LaneState
  cursor : Option DescIndex
  start : Option DescIndex
  airings : Nat
  repeats : Option Nat
  spacing : Nat
  countdown : Nat
  report : ReportPoint
  lastSeg : Option Nat
  deriving DecidableEq, Repr

/-- The lane controller (R148, R149, R164). -/
structure Lanes where
  lane : Vector Lane 4
  rotation : List LaneNo
  lastEvent : Option LaneNo
  deriving DecidableEq, Repr

/-! ### The coded minute (chapter 1) and the drafts (chapter 4) -/

/-- Level symbols (R3). -/
inductive Symbol where
  | zero | one | mark | split
  deriving DecidableEq, Repr

/-- Directions of a flip (R9). -/
inductive Direction where
  | advance | retard
  deriving DecidableEq, Repr

/-- Kinds of a flip (R12, R13). -/
inductive FlipKind where
  | normal | fill | breach
  deriving DecidableEq, Repr

/-- What a phase cell carries (R9). -/
inductive PhaseCell where
  | hold
  | flip (dir : Direction) (kind : FlipKind)
  deriving DecidableEq, Repr

/-- The civil fields of a frame (R44). -/
structure CivilFields where
  zone : ZoneState
  zoneWarn : Bool
  leapWarn : Bool
  leapKind : Bool
  minute : Nat
  hour : Nat
  dayOfYear : Nat
  yearOfCentury : Nat
  weekday : Nat
  deriving DecidableEq, Repr

/-- The segment fields of a draft, copied at the freeze (R58, Table 4.1). -/
structure SegmentPart where
  lane : LaneNo
  index : DescIndex
  payload : List Byte
  check : Byte
  cues : List Cue
  stream : List PhaseCell
  deriving DecidableEq, Repr

/-- The fields that only a CODED draft has (Table 4.1). -/
structure CodedPart where
  symbolCount : Nat
  civil : CivilFields
  quality : Bool
  annId : Nat
  segNo : Nat
  lastSeg : Nat
  row : List Symbol
  segment : Option SegmentPart
  deriving DecidableEq, Repr

/-- Key states, in the order of R104. -/
inductive KeyState where
  | dormant | standby | holding | yielding | fenced | proving
  deriving DecidableEq, Repr

/-- A minute draft (R51). A STEADY draft has no coded part. -/
structure Draft where
  minute : Nat
  coded : Option CodedPart
  digest : Word32
  participant : Bool
  refState : RefState
  keyState : KeyState
  deriving DecidableEq, Repr

/-! ### Concord records (chapter 6) -/

/-- Outcomes, in the order of Table 6.1. -/
inductive RecordOutcome where
  | pending | concord | none
  deriving DecidableEq, Repr

/-- Roles, in the order of Table 6.1. -/
inductive Role where
  | assent | dissent | abstain
  deriving DecidableEq, Repr

/-- Standings, in the order of Table 6.1. -/
inductive Standing where
  | contender | left | observer | blind | decided
  deriving DecidableEq, Repr

/-- A concord record (R89, Table 6.1). -/
structure ConcordRecord where
  minute : Nat
  outcome : RecordOutcome
  digest : Option Word32
  tally : Nat
  passesUsed : Nat
  role : Option Role
  assenting : PosSet
  standing : Option Standing
  nextPass : Option Nat
  deriving DecidableEq, Repr

/-! ### The concord window (chapter 5) -/

/-- Where the window of the own second in progress stands: not yet open, open, or over (closed, dead, abandoned, or
none in this second). -/
inductive WindowPhase where
  | waiting | opened | over
  deriving DecidableEq, Repr

/-- Alignment (R74). -/
inductive Alignment where
  | aligned | askew | dead
  deriving DecidableEq, Repr

/-- How SYNC was driven (R88, R180). -/
inductive SyncDrive where
  | notDriven | atStart | late
  deriving DecidableEq, Repr

/-- The decoder's report for the SHADOW cell (R82, R132). -/
inductive ShadowReport where
  | accuse | clear | none
  deriving DecidableEq, Repr

/-- The outcome of the SHADOW cell (R82), in the order of R180's codes. -/
inductive ShadowOutcome where
  | none | unanimous | split
  deriving DecidableEq, Repr

/-- What the own window start found (R72, R78, R81, R132): the key state, the reference state, whether the most
recently frozen draft held is a participant's, and the decoder's report. -/
structure WindowStart where
  key : KeyState
  ref : RefState
  standing : Bool
  report : ShadowReport
  deriving DecidableEq, Repr

/-- The window of the own second in progress. `cell` is the cell in progress (0 is SYNC), `sampled` whether it has
been read, `yieldResolved` whether the yield that the window began with has been resolved in it, by its BIDDING cell or as
a dead window (R112). -/
structure Window where
  phase : WindowPhase
  sync : Option Instant
  alignment : Option Alignment
  syncDrive : SyncDrive
  syncDriving : Bool
  atStart : Option WindowStart
  cell : Nat
  sampled : Bool
  pullCca : Bool
  driveCco : Bool
  present : PosSet
  hold : PosSet
  shadow : ShadowOutcome
  steady : Bool
  quiet : Bool
  yieldSet : Bool
  vacancyTaken : Bool
  vacancy : Bool
  bidder : Bool
  digestDriving : Bool
  digestRead : Word32
  passResult : Option Word32
  equalsResult : Bool
  assents : PosSet
  bidding : Bool
  yieldResolved : Bool
  bidDriving : Bool
  bidRead : BitVec 5
  deriving DecidableEq, Repr

/-- The window record (R88). -/
structure WindowRecord where
  second : Option Nat
  alignment : Alignment
  syncDrive : SyncDrive
  offset : Option Int
  present : PosSet
  hold : PosSet
  shadow : ShadowOutcome
  steady : Bool
  quiet : Bool
  yieldSet : Bool
  bidding : Bool
  deriving DecidableEq, Repr

/-- A row of the peer table (R79). -/
structure PeerRow where
  present : Bool
  holding : Bool
  absentRun : Nat
  assentPass : Option Nat
  self : Bool
  deriving DecidableEq, Repr

/-- The local requests (R86). -/
structure LocalRequests where
  steady : Bool
  quiet : Bool
  deriving DecidableEq, Repr

/-! ### The key controller (chapter 7) -/

/-- Proof progress (R118 to R120). `missed`: a second of the proof minute was reported not matched. -/
structure Proof where
  minute : Option Nat
  running : Bool
  matched : Nat
  missed : Bool
  refHeld : Bool
  deriving DecidableEq, Repr

/-- The key controller (R104, Table 7.1). `heldEdges` counts own edges the unit has been the holder since, up to 2
(R115); `listenOpen` says that the minute in progress is a listening minute not spoiled (R121). -/
structure KeyCtl where
  state : KeyState
  drivers : Bool
  bidBar : Bool
  pendingTake : Option Nat
  pendingRelease : Bool
  pendingFence : Bool
  unsupported : Nat
  askewRun : Nat
  beaconAbsent : Bool
  listening : Nat
  listenOpen : Bool
  heldEdges : Nat
  proof : Proof
  deriving DecidableEq, Repr

/-! ### Keying generator and shadow decoder (chapter 8) -/

/-- Where the pattern goes (R125). -/
inductive KeyingOutput where
  | bus | loop | none
  deriving DecidableEq, Repr

/-- The keying generator and the keying lines: what this unit drives, what it loops, what the others drive. -/
structure Keying where
  out : KeyingOutput
  nextTick : Nat
  own : KeyingLines
  loop : KeyingLines
  peer : KeyingLines
  deriving DecidableEq, Repr

/-- A change of level of the keying lines, and the levels from then on (R127). -/
structure LineSample where
  instant : Instant
  lines : KeyingLines
  deriving DecidableEq, Repr

/-- Observed symbols (R128), in the order of R181's codes. -/
inductive ObsSymbol where
  | zero | one | mark | split | blank | unclear
  deriving DecidableEq, Repr

/-- Cell readings (R129). -/
inductive CellReading where
  | advance | retard | hold | double
  deriving DecidableEq, Repr

/-- A second entry of the open minute (R131). `matched = none`: no match is defined (R130). -/
structure SecondEntry where
  symbol : ObsSymbol
  cells : List CellReading
  stray : Bool
  observed : Bool
  matched : Option Bool
  deriving DecidableEq, Repr

/-- The open minute (R131). -/
structure OpenMinute where
  number : Nat
  entries : List SecondEntry
  loopEntries : List SecondEntry
  keyers : PosSet
  deriving DecidableEq, Repr

/-- The header of an air record (R135). -/
structure AirHeader where
  minute : Nat
  hour : Nat
  dayOfYear : Nat
  yearOfCentury : Nat
  weekday : Nat
  annId : Nat
  segNo : Nat
  lastSeg : Nat
  deriving DecidableEq, Repr

/-- An air record (R134, Table 8.3). -/
structure AirRecord where
  minute : Nat
  symbols : List ObsSymbol
  header : Option AirHeader
  complete : Bool
  segmentCheck : Option Bool
  matchesCurrent : Option Bool
  keyers : PosSet
  steady : Bool
  deriving DecidableEq, Repr

/-- What the SHADOW report of the window of second k rests on, settled at the own edge of k (R132): whether the
record of k-1's minute gives the role ASSENT, whether that minute's draft is CODED, whether k-1 was observed and did
not match, and whether the beacon was present in the window of k-1. -/
structure Evidence where
  assent : Bool
  coded : Bool
  mismatch : Bool
  beacon : Bool
  deriving DecidableEq, Repr

/-- The shadow decoder (R127 to R141). -/
structure Decoder where
  busBase : KeyingLines
  busTrace : List LineSample
  loopBase : KeyingLines
  loopTrace : List LineSample
  openMinute : Option OpenMinute
  log : List AirRecord
  evidence : Option Evidence
  lastCue : BitVec 4
  cus : Bool
  deriving DecidableEq, Repr

/-! ### Controller link and event unit (chapter 11) -/

/-- The receiver (R173). DRAINING keeps the code it will answer FORMAT with, if any; RESPONDING holds the response
frame that is being sent on CLO. -/
inductive Receiver where
  | empty
  | collecting (bytes : List Byte)
  | draining (kept : Option Byte)
  | responding (frame : List Byte)
  deriving DecidableEq, Repr

/-- The controller link (R173, R175). -/
structure Link where
  rx : Receiver
  restartPending : Bool
  deriving DecidableEq, Repr

/-- The event latches and the enable mask (R182, R183). -/
structure EventUnit where
  latches : Word24
  mask : Word24
  deriving DecidableEq, Repr

/-- The 23 kinds of event, in the order of Table 11.6. -/
inductive Event where
  | refLocked | refLost | refExpired | refStep | realigned | leapApplied | zoneApplied | noConcord | dissent | skew
  | keyTaken | keyReleased | yieldCancelled | collision | fenced | proven | provingFailed | shadowSplit
  | airIncomplete | cue | laneStarved | laneFault | announceDone
  deriving DecidableEq, Repr

/-- The status of a response (Table 11.3). -/
inductive Status where
  | done | state | owner | range | full | format
  deriving DecidableEq, Repr

/-! ### The whole unit -/

/-- The state of the unit, with the queue of waiting commands. `freeIdx` counts the free choices made (log 10);
`handedOver` says that a NEXT has been handed over (R65) since the last power-on, RSTN or RESTART (R81, log 36). -/
structure State where
  pending : List Instr
  freeIdx : Nat
  handedOver : Bool
  pwr : Power
  straps : Straps
  trk : Tracker
  zone : List ZoneEntry
  store : Vector Descriptor 128
  lanes : Lanes
  next : Option Draft
  current : Option Draft
  nextRec : Option ConcordRecord
  curRec : Option ConcordRecord
  win : Window
  winRec : Option WindowRecord
  peers : Vector PeerRow 8
  req : LocalRequests
  key : KeyCtl
  keying : Keying
  dec : Decoder
  link : Link
  ev : EventUnit
  deriving DecidableEq, Repr

/-! ### Values at reset -/

/-- Every line released (R126). -/
def linesReleased : KeyingLines := ⟨false, false, false⟩

/-- Straps before the sample (DESIGN CHOICE, log 4). -/
def Straps.unsampled : Straps := ⟨0, 0, 1, 0, .fixed⟩

/-- The tracker at reset (R36; the rest log 5). -/
def Tracker.reset : Tracker where
  refState := .acquiring
  countValid := false
  minute := 0
  second := 0
  anchor := 0
  lastEdge := 0
  byOscillator := true
  accepted := none
  validAtEdge := false
  marks := []
  prevRef := none
  openMsg := none
  goodRun := 0
  badRun := 0
  stepConf := 0
  armed := false
  realignDue := false
  stepOrigin := .locked
  holdover := 0
  plan := .none
  planFrozen := false

/-- A descriptor never written (R142). -/
def Descriptor.reset : Descriptor where
  owner := .controller
  claim := none
  annId := 0
  segNo := 0
  lastSeg := 0
  repeats := 0
  endFlag := false
  link := none
  cues := []
  payload := List.replicate 48 0
  aired := 0

/-- A lane at reset (R148). -/
def Lane.reset : Lane where
  state := .stopped
  cursor := none
  start := none
  airings := 0
  repeats := none
  spacing := 0
  countdown := 0
  report := .aired
  lastSeg := none

/-- The lane controller at reset (R148, R149, R164). -/
def Lanes.reset : Lanes := ⟨Vector.replicate 4 Lane.reset, [0, 1, 2, 3], none⟩

/-- A window in which every cell reads neutral (R70, R74): no line driven, every set empty, the DIGEST and BIDVALUE
fields not read. -/
def Window.neutral (phase : WindowPhase) : Window where
  phase := phase
  sync := none
  alignment := none
  syncDrive := .notDriven
  syncDriving := false
  atStart := none
  cell := 0
  sampled := false
  pullCca := false
  driveCco := false
  present := 0
  hold := 0
  shadow := .none
  steady := false
  quiet := false
  yieldSet := false
  vacancyTaken := false
  vacancy := false
  bidder := false
  digestDriving := false
  digestRead := 0
  passResult := none
  equalsResult := false
  assents := 0
  bidding := false
  yieldResolved := false
  bidDriving := false
  bidRead := 0

/-- A peer-table row at reset (R80). -/
def PeerRow.reset : PeerRow := ⟨false, false, 0, none, false⟩

/-- Proof progress that holds no proof minute (R118, R122). -/
def Proof.reset : Proof := ⟨none, false, 0, false, true⟩

/-- The key controller at reset (R122). -/
def KeyCtl.reset : KeyCtl where
  state := .dormant
  drivers := false
  bidBar := false
  pendingTake := none
  pendingRelease := false
  pendingFence := false
  unsupported := 0
  askewRun := 0
  beaconAbsent := false
  listening := 0
  listenOpen := false
  heldEdges := 0
  proof := Proof.reset

/-- The keying generator at reset (R126): output none, every line released, no own second in progress. -/
def Keying.reset : Keying := ⟨.none, 20, linesReleased, linesReleased, linesReleased⟩

/-- The shadow decoder at reset (R139, R141). -/
def Decoder.reset : Decoder :=
  ⟨linesReleased, [], linesReleased, [], none, [], none, 0, false⟩

/-- The unit right after POWER_ON: every block at its power-on values, the start interval running (R165). -/
def State.reset : State where
  pending := []
  freeIdx := 0
  handedOver := false
  pwr := ⟨true, false, true⟩
  straps := Straps.unsampled
  trk := Tracker.reset
  zone := []
  store := Vector.replicate 128 Descriptor.reset
  lanes := Lanes.reset
  next := none
  current := none
  nextRec := none
  curRec := none
  win := Window.neutral .over
  winRec := none
  peers := Vector.replicate 8 PeerRow.reset
  req := ⟨false, false⟩
  key := KeyCtl.reset
  keying := Keying.reset
  dec := Decoder.reset
  link := ⟨.empty, false⟩
  ev := ⟨0, 0⟩

end Sys2Proof.Machine
end

