-- ==== Sys2Proof/Machine/Flags.lean ====
section
/-! DEFINITION. The event latches, the enable mask and ATN (R182, R183). -/

namespace Sys2Proof.Machine

/-- The number of an event (Table 11.6). -/
def Event.number : Event → Nat
  | .refLocked => 1
  | .refLost => 2
  | .refExpired => 3
  | .refStep => 4
  | .realigned => 5
  | .leapApplied => 6
  | .zoneApplied => 7
  | .noConcord => 8
  | .dissent => 9
  | .skew => 10
  | .keyTaken => 11
  | .keyReleased => 12
  | .yieldCancelled => 13
  | .collision => 14
  | .fenced => 15
  | .proven => 16
  | .provingFailed => 17
  | .shadowSplit => 18
  | .airIncomplete => 19
  | .cue => 20
  | .laneStarved => 21
  | .laneFault => 22
  | .announceDone => 23

/-- Event n is bit n-1 of a 24-bit value (R183). -/
def Event.bit (e : Event) : Word24 := 1#24 <<< (e.number - 1)

/-- Bit 23, which belongs to no event (R183). -/
def noEventBit : Word24 := 1#24 <<< 23

/-- Raising an event sets its latch, whatever the enable mask holds (R182). -/
def State.raise (e : Event) (s : State) : State :=
  { s with ev := { s.ev with latches := s.ev.latches ||| e.bit } }

/-- Raise an event when a condition holds. -/
def State.raiseIf (c : Bool) (e : Event) (s : State) : State := if c then s.raise e else s

/-- Whether an event's latch is set. -/
def State.latched (e : Event) (s : State) : Bool := (s.ev.latches &&& e.bit) != 0

/-- ATN is high while a latch is set whose mask bit is set (R183). -/
def State.atn (s : State) : Bool := (s.ev.latches &&& s.ev.mask) != 0

end Sys2Proof.Machine
end

