-- ==== Sys2Proof/Machine/Ops.lean ====
section
/-! DEFINITION. The operations that several blocks share: whether the unit runs, the lengths of time of the manual,
the check of frames and messages (R11), the keying lines and their record, sets of positions, the last second of a
minute, and taking a collision (R113). -/

namespace Sys2Proof.Machine

/-! ### Whether the unit runs -/

/-- Supply up, RSTN high, start interval over: the unit acts on events (R165, R167). -/
def State.running (s : State) : Bool := s.pwr.supply && !s.pwr.rstnLow && !s.pwr.starting

/-- An event that the unit takes only while it runs: in reset and in the start interval it has no effect (R165). -/
def whenRunning (f : State → State) (s : State) : State := if s.running then f s else s

/-! ### Lengths of time, in microseconds -/

/-- `ms n` is n milliseconds. -/
def ms (n : Nat) : Nat := 1000 * n

/-- An own second on the oscillator (R24). -/
def ownSecond : Nat := ms 1000

/-- A tick (R1). -/
def tickLength : Nat := ms 50

/-- A cell of the window (R73). -/
def cellLength : Nat := ms 4

/-- The two instants lie within `d` of each other, before or after. -/
def within (d a b : Nat) : Bool := decide (a ≤ b + d) && decide (b ≤ a + d)

/-! ### The check byte (R11) -/

/-- One step of the division by x^8+x^2+x+1: the top bit of the register leaves it. -/
def crc8Shift (reg : Byte) : Byte := if reg.msb then (reg <<< 1) ^^^ 0x07#8 else reg <<< 1

/-- The check register after one more byte. -/
def crc8Byte (reg : Byte) (b : Byte) : Byte :=
  crc8Shift (crc8Shift (crc8Shift (crc8Shift (crc8Shift (crc8Shift (crc8Shift (crc8Shift (reg ^^^ b))))))))

/-- The 8-bit cyclic check with generator 107h, initial value 0 and no final inversion (R11). -/
def crc8 (bytes : List Byte) : Byte := bytes.foldl crc8Byte 0#8

/-! ### Sets of positions -/

/-- The set with one position. -/
def posBit (p : Nat) : PosSet := 1#8 <<< p

/-- How many positions a set holds. -/
def posCount (a : PosSet) : Nat := ((List.range 8).filter fun p => a.getLsbD p).length

/-! ### The keying lines -/

/-- The keying bus as every unit reads it: open-drain lines, asserted when any unit asserts them (Table 0.1). -/
def busLines (k : Keying) : KeyingLines :=
  ⟨k.own.kyl || k.peer.kyl, k.own.kya || k.peer.kya, k.own.kyr || k.peer.kyr⟩

/-- The decoder sees the bus from this instant on as it now stands (R127). -/
def State.recordBus (t : Instant) (s : State) : State :=
  { s with dec := { s.dec with busTrace := s.dec.busTrace ++ [⟨t, busLines s.keying⟩] } }

/-- The decoder sees the local loop from this instant on as it now stands (R127). -/
def State.recordLoop (t : Instant) (s : State) : State :=
  { s with dec := { s.dec with loopTrace := s.dec.loopTrace ++ [⟨t, s.keying.loop⟩] } }

/-- Drive the unit's own lines on the bus, from this instant on. -/
def State.driveBus (t : Instant) (l : KeyingLines) (s : State) : State :=
  if s.keying.own = l then s else { s with keying := { s.keying with own := l } }.recordBus t

/-- Put the pattern's lines on the local loop, from this instant on. -/
def State.driveLoop (t : Instant) (l : KeyingLines) (s : State) : State :=
  if s.keying.loop = l then s else { s with keying := { s.keying with loop := l } }.recordLoop t

/-- Release every line of the bus and of the loop, in the middle of a tick or a strobe if one is in progress (R125). -/
def State.releaseKeying (t : Instant) (s : State) : State :=
  (s.driveBus t linesReleased).driveLoop t linesReleased

/-! ### The UTC minute -/

/-- Whether a minute number is that of 23:59 UTC (R25). -/
def isLastMinuteOfDay (m : Nat) : Bool := m % 1440 == 1439

/-- How many seconds a minute has under a plan (R25). -/
def minuteLength (m : Nat) (plan : LeapPlan) : Nat :=
  if isLastMinuteOfDay m then
    match plan with
    | .none => 60
    | .insert => 61
    | .delete => 59
  else 60

/-- The second in progress is the last of its minute, as the count runs (R78). -/
def Tracker.inLastSecond (t : Tracker) : Bool :=
  t.countValid && decide (minuteLength t.minute t.plan ≤ t.second + 1)

/-- The value the count passes to at the next own edge (R25). -/
def Tracker.nextCount (t : Tracker) : CountTime :=
  if t.inLastSecond then ⟨t.minute + 1, 0⟩ else ⟨t.minute, t.second + 1⟩

/-! ### Key states -/

/-- HOLDING or YIELDING: the unit is the holder (R104). -/
def KeyState.isHolder : KeyState → Bool
  | .holding => true
  | .yielding => true
  | .dormant => false
  | .standby => false
  | .fenced => false
  | .proving => false

/-- A record gives the role ASSENT with outcome CONCORD (R105, R108, R132). -/
def assents (r : Option ConcordRecord) : Bool :=
  match r with
  | some r => r.outcome == .concord && r.role == some .assent
  | none => false

/-- The four keying conditions of R105. -/
def State.keyingConditions (s : State) : Bool :=
  match s.current with
  | some d => d.coded.isSome && assents s.curRec
  | none => false

/-- A collision (R113): the drivers go off at once, the bid bar is set, a pending release is cleared and COLLISION
is raised. The unit becomes STANDBY at once, except that one with a pending fence keeps its key state to the edge that
the fence names. -/
def State.collide (t : Instant) (s : State) : State :=
  let k := s.key
  let s1 : State :=
    { s with
      key :=
        { k with
          drivers := false
          bidBar := true
          pendingRelease := false
          state := if k.pendingFence then k.state else .standby
          heldEdges := if k.pendingFence then k.heldEdges else 0 }
      keying := { s.keying with out := .none } }
  (s1.releaseKeying t).raise .collision

end Sys2Proof.Machine
end

