-- ==== Sys2Proof/Machine/CodedMinute.lean ====
section
/-! DEFINITION. The coded minute (chapter 1): the frame and its symbol row (R4 to R8), the phase stream with its
zero-run substitution (R10 to R14), the line pattern of a tick (R2, R3, R9, R17 to R19), and the recovery of a stream
from what was observed (R16). -/

namespace Sys2Proof.Machine

/-! ### The frame -/

/-- The bits of an unsigned field, most significant first (R4). -/
def fieldBits (width n : Nat) : List Bool := (List.range width).map fun i => n.testBit (width - 1 - i)

/-- A bit is sent as ONE or ZERO (R4). -/
def bitSymbol (b : Bool) : Symbol := if b then .one else .zero

/-- The symbols of a field (R4). -/
def fieldSymbols (width n : Nat) : List Symbol := (fieldBits width n).map bitSymbol

/-- The even parity over some symbols: ONE when the number of ONEs among them is odd (R5). -/
def parityOf (covered : List Symbol) : Symbol := bitSymbol ((covered.count .one) % 2 == 1)

/-- Fields followed by their parity second. -/
def withParity (covered : List Symbol) : List Symbol := covered ++ [parityOf covered]

/-- The closing seconds (R8, Table 1.3). -/
def closingSymbols (symbolCount : Nat) : List Symbol :=
  List.replicate (symbolCount - 59) .zero ++ [.split]

/-- The symbol row (R4 to R8, Table 1.2). -/
def symbolRow (c : CivilFields) (quality : Bool) (annId segNo lastSeg symbolCount : Nat) : List Symbol :=
  [.mark, bitSymbol (c.zone == .summer), bitSymbol c.zoneWarn, bitSymbol c.leapWarn, bitSymbol c.leapKind,
    bitSymbol quality]
    ++ withParity (fieldSymbols 6 c.minute)
    ++ withParity (fieldSymbols 5 c.hour)
    ++ withParity (fieldSymbols 9 c.dayOfYear ++ fieldSymbols 7 c.yearOfCentury ++ fieldSymbols 3 c.weekday)
    ++ withParity (fieldSymbols 8 annId ++ fieldSymbols 5 segNo ++ fieldSymbols 5 lastSeg)
    ++ closingSymbols symbolCount

/-! ### The phase stream -/

/-- The bits of a byte, most significant first (R10). -/
def byteBits (b : Byte) : List Bool := fieldBits 8 b.toNat

/-- The 392 bits of a segment: the payload bytes, then the check byte (R10). -/
def segmentBits (payload : List Byte) (check : Byte) : List Bool := (payload ++ [check]).flatMap byteBits

/-- The opposite direction. -/
def Direction.opposite : Direction → Direction
  | .advance => .retard
  | .retard => .advance

/-- The coder of R12 and R13, with its two items of state: the direction of the most recent flip, and whether the
number of normal flips since the most recent breach is odd. -/
def encodePhase : Direction → Bool → List Bool → List PhaseCell
  | _, _, [] => []
  | dir, odd, true :: rest => .flip dir.opposite .normal :: encodePhase dir.opposite (!odd) rest
  | dir, odd, false :: false :: false :: false :: false :: rest =>
    if odd then
      .hold :: .hold :: .hold :: .hold :: .flip dir .breach :: encodePhase dir false rest
    else
      .flip dir.opposite .fill :: .hold :: .hold :: .hold :: .flip dir.opposite .breach
        :: encodePhase dir.opposite false rest
  | dir, odd, false :: rest => .hold :: encodePhase dir odd rest

/-- The phase stream of a minute: at cell 0 the most recent direction is RETARD and the count is 0 (R12). -/
def phaseStream (payload : List Byte) (check : Byte) : List PhaseCell :=
  encodePhase .retard false (segmentBits payload check)

/-- The remainder of a bit sequence on division by 107h (R11, R16). -/
def bitRemainder (bits : List Bool) : Byte :=
  bits.foldl (fun reg b => crc8Shift reg ^^^ (if b then 1#8 else 0#8)) 0#8

/-- The recovery of R16: the bits so far are kept latest first, and a BREACH sets its own cell and the four before
it to 0. A cell with strobes on both lines makes the stream unreadable. -/
def recoverBits : Direction → List Bool → List CellReading → Option (List Bool)
  | _, acc, [] => some acc.reverse
  | _, _, .double :: _ => none
  | ref, acc, .hold :: rest => recoverBits ref (false :: acc) rest
  | ref, acc, .advance :: rest =>
    if ref = .advance then recoverBits ref (false :: ((acc.take 4).map fun _ => false) ++ acc.drop 4) rest
    else recoverBits .advance (true :: acc) rest
  | ref, acc, .retard :: rest =>
    if ref = .retard then recoverBits ref (false :: ((acc.take 4).map fun _ => false) ++ acc.drop 4) rest
    else recoverBits .retard (true :: acc) rest

/-- The stream recovered from the cells of a minute, with the reference direction RETARD at cell 0 (R16). -/
def recoverStream (cells : List CellReading) : Option (List Bool) := recoverBits .retard [] cells

/-- The segment check of a recovered stream (R16, R136). -/
def segmentCheckGood (cells : List CellReading) : Bool :=
  match recoverStream cells with
  | some bits => bitRemainder bits == 0#8
  | none => false

/-! ### The pattern of a tick -/

/-- The ticks in which a symbol asserts KYL (R3, Table 1.1). -/
def Symbol.dips (sym : Symbol) (tick : Nat) : Bool :=
  match sym with
  | .zero => decide (tick ≤ 2)
  | .one => decide (tick ≤ 5)
  | .mark => decide (tick ≤ 11)
  | .split => decide (tick ≤ 2) || (decide (6 ≤ tick) && decide (tick ≤ 8))

/-- Whether a second holds phase cells (R9). -/
def hasPhaseCells (second : Nat) : Bool := decide (1 ≤ second) && decide (second ≤ 56)

/-- The number of the cell at a tick of a second that holds phase cells (R9). -/
def cellNumber (second tick : Nat) : Nat := 7 * (second - 1) + (tick - 13)

/-- What a draft puts in the phase cell at a tick (R9, R17): a hold where there is no cell or the channel is idle. -/
def CodedPart.cellAt (c : CodedPart) (second tick : Nat) : PhaseCell :=
  match c.segment with
  | some seg =>
    if hasPhaseCells second && decide (13 ≤ tick) && decide (tick ≤ 19) then
      seg.stream.getD (cellNumber second tick) .hold
    else .hold
  | none => .hold

/-- The lines at the start of a tick of a second of a minute whose draft is `d` (R2, R18, R19). Without a draft, in a
steady minute and beyond the row nothing is asserted. -/
def patternLines (d : Option Draft) (second tick : Nat) : KeyingLines :=
  match d.bind Draft.coded with
  | none => linesReleased
  | some c =>
    match c.row[second]? with
    | none => linesReleased
    | some sym =>
      ⟨sym.dips tick,
        match c.cellAt second tick with
        | .flip .advance _ => true
        | _ => false,
        match c.cellAt second tick with
        | .flip .retard _ => true
        | _ => false⟩

end Sys2Proof.Machine
end

