-- ==== Sys2Proof/Machine/Calendar.lean ====
section
/-! DEFINITION. The civil calendar (chapter 3): the zone state, local time and date of a UTC minute (R37 to R41), the
warnings (R42, R43), entries falling due (R45), the settling of the table (R46), and the changes that ZONE ADD and
ZONE REMOVE make (R47, R48). -/

namespace Sys2Proof.Machine

/-- The strapped offset as the calendar limits it (R37). -/
def clampOffset (z : Int) : Int := if z < -48 then -48 else if 56 < z then 56 else z

/-- The zone state at a minute: that of the latest entry at or before it, STANDARD when there is none (R39). -/
def zoneStateAt (table : List ZoneEntry) (t : Nat) : ZoneState :=
  match (table.filter fun e => decide (e.start ≤ t)).getLast? with
  | some e => e.state
  | none => .standard

/-- The local offset in minutes (R37). -/
def localOffset (offset : Int) (z : ZoneState) : Int :=
  15 * offset + (match z with
    | .standard => 0
    | .summer => 60)

/-- The local minute number (R40). -/
def localMinute (offset : Int) (table : List ZoneEntry) (t : Nat) : Int :=
  (t : Int) + localOffset offset (zoneStateAt table t)

/-- A calendar date as the frame carries it: day of year and year of century (R40). -/
structure CivilDate where
  dayOfYear : Nat
  yearOfCentury : Nat
  deriving DecidableEq, Repr

/-- The date of a local day number (R40, R41): years from 2000 in groups of four, 366 days first and then three of
365; day number -1 is 1999-12-31, and the year 2100 has year of century 0. -/
def dateOfDay (d : Int) : CivilDate :=
  let group := d / 1461
  let r := d % 1461
  if r < 366 then ⟨(r + 1).toNat, (4 * group % 100).toNat⟩
  else ⟨((r - 366) % 365 + 1).toNat, ((4 * group + 1 + (r - 366) / 365) % 100).toNat⟩

/-- The weekday of a local day number, 1 for Monday (R41). -/
def weekdayOfDay (d : Int) : Nat := ((d + 5) % 7 + 1).toNat

/-- The zone change warning of the frame for a minute (R42). -/
def zoneChangeWarning (table : List ZoneEntry) (t : Nat) : Bool :=
  table.any fun e => decide (t + 1 ≤ e.start) && decide (e.start ≤ t + 60)

/-- The leap warning of the frame for a minute (R43). -/
def leapWarning (plan : LeapPlan) (t : Nat) : Bool := decide (1380 ≤ t % 1440) && plan != .none

/-- The leap kind of the frame for a minute (R43). -/
def leapKind (plan : LeapPlan) (t : Nat) : Bool := leapWarning plan t && plan == .delete

/-- The calendar's answer for a minute (R44). -/
def civilFields (offset : Int) (table : List ZoneEntry) (plan : LeapPlan) (t : Nat) : CivilFields :=
  let l := localMinute offset table t
  let day := l / 1440
  let ofDay := (l % 1440).toNat
  { zone := zoneStateAt table t
    zoneWarn := zoneChangeWarning table t
    leapWarn := leapWarning plan t
    leapKind := leapKind plan t
    minute := ofDay % 60
    hour := ofDay / 60
    dayOfYear := (dateOfDay day).dayOfYear
    yearOfCentury := (dateOfDay day).yearOfCentury
    weekday := weekdayOfDay day }

/-- The last minute of 2099 (3.2, R53). -/
def lastMinute : Nat := 52595999

/-- The past entry: the one whose instant is at or before the current minute (R38). While the count is invalid no
entry is past. -/
def State.pastEntry (s : State) : Option ZoneEntry :=
  if s.trk.countValid then s.zone.find? fun e => decide (e.start ≤ s.trk.minute) else none

/-- Put an entry into the table in order of instant (R38, R47). -/
def insertEntry (e : ZoneEntry) (table : List ZoneEntry) : List ZoneEntry :=
  (table.filter fun x => decide (x.start < e.start)) ++ [e] ++ table.filter fun x => decide (e.start < x.start)

/-- At the own minute boundary that begins minute `c`: a pending entry with that instant becomes the past entry, the
previous one is removed, and ZONE_APPLIED is raised (R45). -/
def zoneDue (c : Nat) (s : State) : State :=
  if s.zone.any fun e => e.start == c then
    { s with zone := s.zone.filter fun e => decide (c ≤ e.start) }.raise .zoneApplied
  else s

/-- The table settled against the minute `c`: the latest entry at or before it stays, the earlier ones go (R46). -/
def settledTable (c : Nat) (table : List ZoneEntry) : List ZoneEntry :=
  (table.filter fun e => decide (e.start ≤ c)).getLast?.toList ++ table.filter fun e => decide (c < e.start)

/-- Settle the table against the current minute `c`; `before` is the entry that was past until now. ZONE_APPLIED is
raised when another entry becomes past (R46). -/
def settleZone (c : Nat) (before : Option ZoneEntry) (s : State) : State :=
  let now := (s.zone.filter fun e => decide (e.start ≤ c)).getLast?
  { s with zone := settledTable c s.zone }.raiseIf (now.isSome && now != before) .zoneApplied

/-- A new state as ZONE ADD carries it (R176). -/
def zoneStateOf (b : Byte) : Option ZoneState :=
  if b = 0 then some .standard else if b = 1 then some .summer else none

/-- ZONE ADD, the first case of R47 that applies. -/
def zoneAddTable (s : State) (start : Nat) (state : Byte) : Status × List ZoneEntry :=
  let c := s.trk.minute
  match s.trk.countValid, zoneStateOf state with
  | false, _ => (.state, s.zone)
  | true, none => (.range, s.zone)
  | true, some z =>
    if lastMinute < start then (.range, s.zone)
    else if s.zone.any fun e => e.start == start then (.range, s.zone)
    else if start = c + 1 ∨ start = c + 2 then (.range, s.zone)
    else
      match s.pastEntry, decide (start ≤ c) with
      | some p, true =>
        if start < p.start then (.range, s.zone)
        else (.done, insertEntry ⟨start, z⟩ (s.zone.filter fun e => e != p))
      | _, _ =>
        if 16 ≤ s.zone.length then (.full, s.zone) else (.done, insertEntry ⟨start, z⟩ s.zone)

/-- ZONE REMOVE (R48). -/
def zoneRemoveTable (s : State) (start : Nat) : Status × List ZoneEntry :=
  let c := s.trk.minute
  if !s.trk.countValid then (.state, s.zone)
  else if !(s.zone.any fun e => e.start == start) then (.range, s.zone)
  else if start = c + 1 ∨ start = c + 2 then (.range, s.zone)
  else (.done, s.zone.filter fun e => e.start != start)

end Sys2Proof.Machine
end

