-- ==== Sys2Proof/Machine/Decoder.lean ====
section
/-! DEFINITION. The shadow decoder (chapter 8): what it sees of a second (R127 to R129), the expected observation and
the match (R130), the open minute (R131), the air record and the air log (R134 to R138), and the cue (R140). -/

namespace Sys2Proof.Machine

/-! ### Filtering the lines (R127) -/

/-- The intervals of [a, b) in which a line is asserted; one in progress at `a` starts there, one in progress at `b`
is cut off there. The third argument is the start of the assertion in progress. -/
def assertedFrom (sel : KeyingLines → Bool) (a b : Instant) : List LineSample → Option Instant → List (Nat × Nat)
  | [], none => []
  | [], some st => [(st, b)]
  | x :: xs, cur =>
    if b ≤ x.instant then
      match cur with
      | none => []
      | some st => [(st, b)]
    else
      match cur, sel x.lines with
      | none, true => assertedFrom sel a b xs (some (max a x.instant))
      | some st, false => (st, max a x.instant) :: assertedFrom sel a b xs none
      | cur, _ => assertedFrom sel a b xs cur

/-- Intervals in order of instant, with every gap shorter than `gap` between two of them bridged. -/
def bridgeBelow (gap : Nat) (ivs : List (Nat × Nat)) : List (Nat × Nat) :=
  ivs.foldr
    (fun iv acc =>
      match acc with
      | [] => [iv]
      | nxt :: rest => if nxt.1 < iv.2 + gap then (iv.1, nxt.2) :: rest else iv :: nxt :: rest)
    []

/-- The longest stretches of a span in which a line is asserted, given its level before the record and the record of changes.
Of several changes at one instant the last stands: no stretch is empty, and no two touch. -/
def assertedIntervals (sel : KeyingLines → Bool) (a b : Instant) (base : KeyingLines) (trace : List LineSample) :
    List (Nat × Nat) :=
  bridgeBelow 1
    ((assertedFrom sel a b trace (if sel base then some a else none)).filter fun i => decide (i.1 < i.2))

/-- A release shorter than 5 ms inside an assertion is bridged (R127). -/
def bridgeGaps (ivs : List (Nat × Nat)) : List (Nat × Nat) := bridgeBelow (ms 5) ivs

/-- An assertion shorter than 5 ms is not seen (R127). -/
def dropShort (ivs : List (Nat × Nat)) : List (Nat × Nat) := ivs.filter fun i => decide (i.1 + ms 5 ≤ i.2)

/-- The dips the decoder sees on KYL (R127). Where the order of the two parts of the filter matters, which the rule
does not give, it is `Config.kylBridgesFirst` (log 7). -/
def seenDips (ivs : List (Nat × Nat)) : List (Nat × Nat) :=
  let bridgedFirst := dropShort (bridgeGaps ivs)
  let droppedFirst := bridgeGaps (dropShort ivs)
  if bridgedFirst = droppedFirst then bridgedFirst
  else if Config.kylBridgesFirst then bridgedFirst
  else droppedFirst

/-- The leading edges of the strobes on a line: assertions of 5 to 20 ms (R127). -/
def strobeEdges (ivs : List (Nat × Nat)) : List Nat :=
  (ivs.filter fun i => decide (i.1 + ms 5 ≤ i.2) && decide (i.2 ≤ i.1 + ms 20)).map Prod.fst

/-- An assertion longer than 20 ms is a stray (R127). -/
def hasLong (ivs : List (Nat × Nat)) : Bool := ivs.any fun i => decide (i.1 + ms 20 < i.2)

/-! ### Classifying a second (R128, R129) -/

/-- A dip's length lies within 20 ms of its nominal length (R128). -/
def dipLasts (nominal : Nat) (iv : Nat × Nat) : Bool := within (ms 20) (iv.2 - iv.1) (ms nominal)

/-- The symbol of a second whose own edge is `edge` (R128, Table 8.1). -/
def classifyDips (edge : Instant) (dips : List (Nat × Nat)) : ObsSymbol :=
  match dips with
  | [] => .blank
  | [d] =>
    if within (ms 10) d.1 edge then
      if dipLasts 150 d then .zero
      else if dipLasts 300 d then .one
      else if dipLasts 600 d then .mark
      else .unclear
    else .unclear
  | [d, e] =>
    if within (ms 10) d.1 edge && dipLasts 150 d && within (ms 20) e.1 (edge + ms 300) && dipLasts 150 e then .split
    else .unclear
  | _ => .unclear

/-- A strobe belongs to cell `i` of a second, counted 0 to 6 (R129). -/
def strobeInCell (edge : Instant) (i : Nat) (t : Nat) : Bool := within (ms 15) t (edge + tickLength * (13 + i))

/-- The reading of a cell from the strobes that belong to it (R129). -/
def cellReading (edge : Instant) (i : Nat) (adv ret : List Nat) : CellReading :=
  match (adv.filter (strobeInCell edge i)).length, (ret.filter (strobeInCell edge i)).length with
  | 0, 0 => .hold
  | 1, 0 => .advance
  | 0, 1 => .retard
  | _, _ => .double

/-- A strobe belongs to some cell of the second (R129). -/
def strobeHasCell (second : Nat) (edge : Instant) (t : Nat) : Bool :=
  hasPhaseCells second && (List.range 7).any fun i => strobeInCell edge i t

/-- What a second showed: its symbol, its cell readings and its stray flag. -/
structure Observation where
  symbol : ObsSymbol
  cells : List CellReading
  stray : Bool
  deriving DecidableEq, Repr

/-- Observe second number `second`, whose own edge is `edge`, from the record of the lines: its span runs from 20 ms
before the edge to 980 ms after it (R127). -/
def observeSpan (second : Nat) (edge : Instant) (base : KeyingLines) (trace : List LineSample) : Observation :=
  let a := edge - ms 20
  let b := edge + ms 980
  let adv := assertedIntervals KeyingLines.kya a b base trace
  let ret := assertedIntervals KeyingLines.kyr a b base trace
  let strobesA := strobeEdges adv
  let strobesR := strobeEdges ret
  { symbol := classifyDips edge (seenDips (assertedIntervals KeyingLines.kyl a b base trace))
    cells :=
      if hasPhaseCells second then (List.range 7).map fun i => cellReading edge i strobesA strobesR else []
    stray :=
      hasLong adv || hasLong ret || (strobesA ++ strobesR).any fun t => !(strobeHasCell second edge t) }

/-- The second is observed when the edge that ends it does not come before its span is over (R127). -/
def observedSecond (edge ended : Instant) : Bool := decide (edge + ms 980 ≤ ended)

/-! ### Expected observation and match (R130) -/

/-- A level symbol as observed. -/
def Symbol.observed : Symbol → ObsSymbol
  | .zero => .zero
  | .one => .one
  | .mark => .mark
  | .split => .split

/-- The reading a correct keying of a cell gives. -/
def PhaseCell.reading : PhaseCell → CellReading
  | .hold => .hold
  | .flip .advance _ => .advance
  | .flip .retard _ => .retard

/-- The expected observation of a second under a draft (R130). -/
def expectedObservation (d : Draft) (second : Nat) : Observation :=
  match d.coded with
  | none => ⟨.blank, if hasPhaseCells second then List.replicate 7 .hold else [], false⟩
  | some c =>
    { symbol :=
        match c.row[second]? with
        | some sym => sym.observed
        | none => .blank
      cells :=
        if hasPhaseCells second then (List.range 7).map fun i => (c.cellAt second (13 + i)).reading else []
      stray := false }

/-- Whether an observed second matches a draft (R130). -/
def observationMatches (d : Draft) (second : Nat) (o : Observation) : Bool :=
  decide (o = expectedObservation d second)

/-! ### Second entries and the open minute (R131) -/

/-- A second that was not observed stands as UNCLEAR (R131). -/
def unobservedEntry : SecondEntry := ⟨.unclear, [], false, false, none⟩

/-- The entry of second `second` from `edge` to `ended`, against the draft of its minute if the unit holds one. -/
def secondEntry (d : Option Draft) (second : Nat) (edge ended : Instant) (base : KeyingLines)
    (trace : List LineSample) : SecondEntry :=
  if observedSecond edge ended then
    let o := observeSpan second edge base trace
    ⟨o.symbol, o.cells, o.stray, true, d.map fun d => observationMatches d second o⟩
  else unobservedEntry

/-- A minute opened with the second in progress and every earlier one unobserved: when the count becomes valid, and
at a realign (R131). The rule enters the seconds so far and does not say whether the loop observation has entries for them:
that it has none is the model's choice (log 33). -/
def openUnobserved (c : CountTime) (s : State) : State :=
  { s with
    dec := { s.dec with openMinute := some ⟨c.minute, List.replicate (c.second + 1) unobservedEntry, [], 0⟩ } }

/-- Forget what was recorded of a set of lines before an instant: the level then, and the later changes. -/
def forgetBefore (t : Instant) (base : KeyingLines) (trace : List LineSample) : KeyingLines × List LineSample :=
  (((trace.filter fun x => decide (x.instant < t)).getLast?.map LineSample.lines).getD base,
    trace.filter fun x => decide (t ≤ x.instant))

/-! ### The air record (R134 to R137) -/

/-- The bit of a header second, if it was ZERO or ONE (R135). -/
def ObsSymbol.bit? : ObsSymbol → Option Bool
  | .zero => some false
  | .one => some true
  | .mark => none
  | .split => none
  | .blank => none
  | .unclear => none

/-- A valid symbol (R128). -/
def ObsSymbol.valid : ObsSymbol → Bool
  | .zero => true
  | .one => true
  | .mark => true
  | .split => true
  | .blank => false
  | .unclear => false

/-- A number from bits, most significant first. -/
def bitsToNat (bits : List Bool) : Nat := bits.foldl (fun n b => 2 * n + b.toNat) 0

/-- The value of the field in seconds `first` to `first + width - 1`; `bits` holds seconds 1 to 57 (R135). -/
def headerField (bits : List Bool) (first width : Nat) : Nat := bitsToNat ((bits.drop (first - 1)).take width)

/-- A parity group, its parity second included, holds an even number of ONEs (R135). -/
def groupEven (bits : List Bool) (first last : Nat) : Bool :=
  ((bits.drop (first - 1)).take (last + 1 - first)).count true % 2 == 0

/-- The header of a list of observed symbols, when it can be decoded (R135). -/
def decodeHeader (symbols : List ObsSymbol) : Option AirHeader :=
  match ((symbols.drop 1).take 57).mapM ObsSymbol.bit? with
  | none => none
  | some bits =>
    if bits.length = 57 ∧ groupEven bits 6 12 ∧ groupEven bits 13 18 ∧ groupEven bits 19 38
        ∧ groupEven bits 39 57 then
      some
        { minute := headerField bits 6 6
          hour := headerField bits 13 5
          dayOfYear := headerField bits 19 9
          yearOfCentury := headerField bits 28 7
          weekday := headerField bits 35 3
          annId := headerField bits 39 8
          segNo := headerField bits 47 5
          lastSeg := headerField bits 52 5 }
    else none

/-- The record is complete (R136). -/
def recordComplete (symbols : List ObsSymbol) : Bool :=
  symbols.all ObsSymbol.valid && decide (59 ≤ symbols.length) && decide (symbols.length ≤ 61)

/-- No strobe and no stray was observed in the second (R129, R136). -/
def SecondEntry.quiet (e : SecondEntry) : Bool := e.cells.all (fun c => c == .hold) && !e.stray

/-- The record is steady (R136). -/
def recordSteady (entries : List SecondEntry) : Bool := entries.all fun e => e.symbol == .blank && e.quiet

/-- The segment check of a record (R136): absent without a header or with announcement id 0. -/
def recordSegmentCheck (entries : List SecondEntry) (header : Option AirHeader) : Option Bool :=
  match header with
  | none => none
  | some h =>
    if h.annId = 0 then none
    else
      let phase := (entries.drop 1).take 56
      some (phase.all SecondEntry.observed && segmentCheckGood (phase.flatMap SecondEntry.cells))

/-- The matches CURRENT field, against the draft retired at the boundary (R137). -/
def recordMatches (entries : List SecondEntry) (retired : Option Draft) : Option Bool :=
  retired.map fun d =>
    entries.all (fun e => e.observed && e.matched == some true)
      && (match d.coded with
        | some c => entries.length == c.symbolCount
        | none => true)

/-- The air record of an open minute (R134). -/
def airRecord (m : OpenMinute) (retired : Option Draft) : AirRecord :=
  let symbols := m.entries.map SecondEntry.symbol
  let header := decodeHeader symbols
  { minute := m.number
    symbols := symbols
    header := header
    complete := recordComplete symbols
    segmentCheck := recordSegmentCheck m.entries header
    matchesCurrent := recordMatches m.entries retired
    keyers := m.keyers
    steady := recordSteady m.entries }

/-- Enter a record in the air log (R138): records of the same or a later minute go, then the oldest of eight goes. -/
def enterLog (r : AirRecord) (log : List AirRecord) : List AirRecord :=
  let earlier := log.filter fun x => decide (x.minute < r.minute)
  (if 8 ≤ earlier.length then earlier.drop (earlier.length - 7) else earlier) ++ [r]

/-- At an own minute boundary: the open minute, if there is one, is closed as an air record and entered in the log,
and the minute that begins is opened (R131, R134, R138). The record goes to the lane controller. -/
def closeAirMinute (newMinute : Nat) (s : State) : State × Option AirRecord :=
  let opened : Option OpenMinute := some ⟨newMinute, [], [], 0⟩
  match s.dec.openMinute with
  | none => ({ s with dec := { s.dec with openMinute := opened } }, none)
  | some m =>
    let r := airRecord m s.current
    ({ s with dec := { s.dec with openMinute := opened, log := enterLog r s.dec.log } }.raiseIf
        (!r.complete && !r.steady) .airIncomplete,
      some r)

/-! ### The cue (R140) -/

/-- The cue value that a draft's segment marks at a second. -/
def cueValueAt (d : Option Draft) (second : Nat) : Option Nat :=
  match (d.bind Draft.coded).bind CodedPart.segment with
  | some seg => (seg.cues.find? fun c => c.second == second).map Cue.value
  | none => none

/-- A cue is signalled (R140): CUV and the last cue take the value, CUS goes high and CUE is raised. -/
def State.signalCue (v : Nat) (s : State) : State :=
  { s with dec := { s.dec with lastCue := BitVec.ofNat 4 v, cus := true } }.raise .cue

/-! ### The SHADOW report (R132) -/

/-- The decoder's report for a window (R132, Table 8.2). -/
def shadowReport (key : KeyState) (evidence : Option Evidence) : ShadowReport :=
  match key, evidence with
  | .standby, some e =>
    if e.assent then if e.beacon && e.coded && e.mismatch then .accuse else .clear else .none
  | _, _ => .none

end Sys2Proof.Machine
end

