-- ==== Sys2Proof/Machine/Tracker.lean ====
section
/-! DEFINITION. The reference tracker (chapter 2): the reference message (R20, R21), reference seconds and their
judgement (R22, R23), the reference states (R26 to R32), the leap plan (R33, R34), and what an own edge does to the
tracker (R24, R25). Here stand the meanings of the reference port's rows. -/

namespace Sys2Proof.Machine

/-! ### UTC times (R21, R23) -/

/-- The length of the year 2000 + `offset` (R21). -/
def yearLength (offset : Nat) : Nat := if offset % 4 = 0 then 366 else 365

/-- Whole days from 2000-01-01 to a day of a year (R21). -/
def dayNumber (offset dayOfYear : Nat) : Nat := 365 * offset + (offset + 3) / 4 + (dayOfYear - 1)

/-- A UTC time as the count holds it (R21): second 86400 is minute 1439, second 60. -/
def UtcTime.toCount (t : UtcTime) : CountTime :=
  if t.secondOfDay = 86400 then ⟨1440 * t.day + 1439, 60⟩
  else ⟨1440 * t.day + t.secondOfDay / 60, t.secondOfDay % 60⟩

/-- The next second of the UTC day as a plan shapes it (R23). -/
def UtcTime.successor (t : UtcTime) (plan : LeapPlan) : UtcTime :=
  let nextDay : UtcTime := ⟨t.day + 1, 0⟩
  if t.secondOfDay = 86400 then nextDay
  else if t.secondOfDay = 86399 then if plan = .insert then ⟨t.day, 86400⟩ else nextDay
  else if t.secondOfDay = 86398 ∧ plan = .delete then nextDay
  else ⟨t.day, t.secondOfDay + 1⟩

/-! ### The reference message (R20, R21) -/

/-- A decoded message: its time, its leap plan, and whether its health is GOOD. -/
structure RefMessage where
  time : UtcTime
  plan : LeapPlan
  healthGood : Bool
  deriving DecidableEq, Repr

/-- A leap plan as a message carries it (Table 2.1). -/
def leapPlanOf (b : Byte) : Option LeapPlan :=
  if b = 0 then some .none else if b = 1 then some .insert else if b = 2 then some .delete else none

/-- A second of day that a message may name under its plan (R21). -/
def secondOfDayOk (sod : Nat) (plan : LeapPlan) : Bool :=
  decide (sod ≤ 86399) && !(sod == 86399 && plan == .delete) || sod == 86400 && plan == .insert

/-- A complete message, decoded or not (R21). -/
def decodeMessage (bytes : List Byte) : Option RefMessage :=
  match bytes with
  | [b0, b1, b2, b3, b4, b5, b6, b7, b8] =>
    let year := b0.toNat
    let doy := 256 * b1.toNat + b2.toNat
    let sod := 65536 * b3.toNat + 256 * b4.toNat + b5.toNat
    match leapPlanOf b6 with
    | none => none
    | some plan =>
      if b8 = crc8 [b0, b1, b2, b3, b4, b5, b6, b7] ∧ year ≤ 99 ∧ 1 ≤ doy ∧ doy ≤ yearLength year
          ∧ secondOfDayOk sod plan ∧ b7.toNat ≤ 1 then
        some ⟨⟨dayNumber year doy, sod⟩, plan, b7 == 0⟩
      else none
  | _ => none

/-! ### Judging a reference second (R22, R23) -/

/-- The reference time carried on: the successor of the previous second's, under its plan (R22). -/
def Tracker.carriedTime (t : Tracker) : Option UtcTime :=
  t.prevRef.bind fun p => p.time.map fun u => u.successor p.plan

/-- The plan carried on: the previous second's, NONE when it has no reference time (R22). -/
def Tracker.carriedPlan (t : Tracker) : LeapPlan :=
  match t.prevRef with
  | some p => if p.time.isSome then p.plan else .none
  | none => .none

/-- The record of a reference second: from its message when decoded, carried on otherwise (R22). -/
def Tracker.refSecond (t : Tracker) (instant : Instant) (msg : Option RefMessage) : RefSecond :=
  match msg with
  | some m => ⟨instant, some m.time, m.plan⟩
  | none => ⟨instant, t.carriedTime, t.carriedPlan⟩

/-- The REFP edge came between 995 and 1005 ms after the previous reference second (R23). -/
def Tracker.intervalOk (t : Tracker) (edge : Instant) : Bool :=
  match t.prevRef with
  | some p => decide (p.instant + ms 995 ≤ edge) && decide (edge ≤ p.instant + ms 1005)
  | none => false

/-- A decoded real second is good (R23). -/
def Tracker.goodSecond (t : Tracker) (edge : Instant) (m : RefMessage) : Bool :=
  m.healthGood && t.intervalOk edge && t.carriedTime == some m.time

/-- A good second agrees with the count (R23): within 5 ms of an own edge to whose second the count gave its time. -/
def Tracker.agreesWith (t : Tracker) (edge : Instant) (time : UtcTime) : Bool :=
  t.countValid && t.marks.any fun k => within (ms 5) edge k.instant && k.time == some time.toCount

/-- What a judgement finds. -/
inductive Verdict where
  | notGood | agrees | disagrees
  deriving DecidableEq, Repr

/-- The verdict on a real second whose message came out as `msg` (R23). -/
def Tracker.verdict (t : Tracker) (edge : Instant) (msg : Option RefMessage) : Verdict :=
  match msg with
  | none => .notGood
  | some m =>
    if t.goodSecond edge m then if t.agreesWith edge m.time then .agrees else .disagrees else .notGood

/-! ### The reference states (R26 to R33) -/

/-- The plan after a good agreeing second that finds or makes the tracker LOCKED (R33). -/
def Tracker.planFrom (t : Tracker) (plan : LeapPlan) : LeapPlan := if t.planFrozen then t.plan else plan

/-- The second in progress carries a time from now on: the last own edge's mark is given it (R30). -/
def relabelLast (c : CountTime) : List EdgeMark → List EdgeMark
  | [] => []
  | m :: rest => { m with time := some c } :: rest

/-- Entry to LOCKED from ACQUIRING at the fourth good second (R26): the count becomes valid, the calendar settles the
zone table (R46) and the decoder opens a minute (R131). -/
def lockFromAcquiring (sec : RefSecond) (time : UtcTime) (s : State) : State :=
  let c := time.toCount
  let s1 : State :=
    { s with
      trk :=
        { s.trk with
          refState := .locked
          countValid := true
          minute := c.minute
          second := c.second
          anchor := sec.instant
          marks := relabelLast c s.trk.marks
          plan := s.trk.planFrom sec.plan
          badRun := 0
          goodRun := 0
          holdover := 0 } }
  (openUnobserved c (settleZone c.minute none s1)).raise .refLocked

/-- A judged second in ACQUIRING (R26). -/
def judgeAcquiring (sec : RefSecond) (v : Verdict) (s : State) : State :=
  match v, sec.time with
  | .notGood, _ => { s with trk := { s.trk with goodRun := 0 } }
  | _, none => s
  | _, some time =>
    if 4 ≤ s.trk.goodRun + 1 then lockFromAcquiring sec time s
    else { s with trk := { s.trk with goodRun := s.trk.goodRun + 1 } }

/-- Entry to STEPPING (R28). -/
def enterStepping (s : State) : State :=
  { s with
    trk :=
      { s.trk with
        stepOrigin := s.trk.refState
        stepConf := 1
        armed := false
        refState := .stepping } }.raise .refStep

/-- A judged second in LOCKED (R27). -/
def judgeLocked (sec : RefSecond) (v : Verdict) (s : State) : State :=
  match v with
  | .agrees => { s with trk := { s.trk with badRun := 0, plan := s.trk.planFrom sec.plan } }
  | .disagrees => enterStepping s
  | .notGood =>
    if 2 ≤ s.trk.badRun + 1 then
      { s with trk := { s.trk with badRun := 2, refState := .holdover, holdover := 0, goodRun := 0 } }.raise .refLost
    else { s with trk := { s.trk with badRun := s.trk.badRun + 1 } }

/-- A judged second in HOLDOVER or EXPIRED (R31, R32). -/
def judgeRunningAlone (sec : RefSecond) (v : Verdict) (s : State) : State :=
  match v with
  | .notGood => { s with trk := { s.trk with goodRun := 0 } }
  | .disagrees => enterStepping s
  | .agrees =>
    if 4 ≤ s.trk.goodRun + 1 then
      { s with
        trk :=
          { s.trk with
            refState := .locked
            anchor := sec.instant
            plan := s.trk.planFrom sec.plan
            badRun := 0
            goodRun := 0
            holdover := 0 } }.raise .refLocked
    else { s with trk := { s.trk with goodRun := s.trk.goodRun + 1 } }

/-- A judged second in STEPPING (R29). -/
def judgeStepping (sec : RefSecond) (v : Verdict) (s : State) : State :=
  match v with
  | .disagrees =>
    let n := min 4 (s.trk.stepConf + 1)
    { s with trk := { s.trk with stepConf := n, armed := s.trk.armed || n == 4 } }
  | .agrees =>
    let t := { s.trk with stepConf := 0, armed := false, refState := s.trk.stepOrigin }
    if s.trk.stepOrigin = .locked then { s with trk := { t with badRun := 0, anchor := sec.instant } }
    else { s with trk := { t with goodRun := 1 } }
  | .notGood =>
    { s with
      trk :=
        { s.trk with
          stepConf := 0
          armed := false
          goodRun := 0
          refState := if 3600 ≤ s.trk.holdover then .expired else .holdover } }.raise .refLost

/-- In the proof minute, a reading of the reference state that is neither LOCKED nor HOLDOVER clears the
reference-held flag (R119). -/
def proofReferenceCheck (s : State) : State :=
  if s.key.proof.running && s.trk.refState != RefState.locked && s.trk.refState != RefState.holdover then
    { s with key := { s.key with proof := { s.key.proof with refHeld := false } } }
  else s

/-- A reference second is judged once: it becomes the previous one, and the tracker's state acts on the verdict
(R22, R26 to R32). -/
def judge (sec : RefSecond) (v : Verdict) (s : State) : State :=
  let s1 : State := { s with trk := { s.trk with prevRef := some sec } }
  proofReferenceCheck
    (match s.trk.refState with
    | .acquiring => judgeAcquiring sec v s1
    | .locked => judgeLocked sec v s1
    | .holdover => judgeRunningAlone sec v s1
    | .expired => judgeRunningAlone sec v s1
    | .stepping => judgeStepping sec v s1)

/-- The open message ends, decoded or not, and its reference second is judged (R20, R22). -/
def endMessage (msg : Option RefMessage) (s : State) : State :=
  match s.trk.openMsg with
  | none => s
  | some o =>
    let sec := s.trk.refSecond o.edge msg
    let v := s.trk.verdict o.edge msg
    judge sec v { s with trk := { s.trk with openMsg := none } }

/-! ### The reference port -/

/-- A REFP edge in LOCKED: from 995 ms after the anchor and before 1000 ms it is itself the next own edge; within
5 ms after an own edge given by the oscillator it becomes the anchor (R24). -/
def steerByRefp (t : Instant) (s : State) : State :=
  let k := s.trk
  if k.refState = .locked then
    if k.accepted.isNone ∧ k.anchor + ms 995 ≤ t ∧ t < k.anchor + ownSecond then
      { s with trk := { k with accepted := some t } }
    else if k.byOscillator ∧ k.lastEdge ≤ t ∧ t ≤ k.lastEdge + ms 5 then
      { s with trk := { k with anchor := t } }
    else s
  else s

/-- A REFP edge: an open message is missing and its second judged, a real reference second begins and opens a message
window of its own, and in LOCKED the edge steers the own edges (R20, R22, R24). That the second of the message it cuts is
judged first, and the edge steers in the reference state that this leaves, is the model's choice (log 31). -/
def refpEdge (t : Instant) (s : State) : State :=
  let s1 := endMessage none s
  steerByRefp t { s1 with trk := { s1.trk with openMsg := some ⟨t, []⟩ } }

/-- A REFD character completes with a good stop bit: outside an open message it is discarded, inside one it is taken,
and the ninth makes the message complete (R20, R21). -/
def refdCharacter (c : Byte) (s : State) : State :=
  match s.trk.openMsg with
  | none => s
  | some o =>
    let chars := o.chars ++ [c]
    if 9 ≤ chars.length then endMessage (decodeMessage chars) s
    else { s with trk := { s.trk with openMsg := some { o with chars := chars } } }

/-- A notional reference second: 1000 ms after the previous one, never good (R22). It comes only when there is a
previous second and no REFP edge has begun a real one. -/
def notionalSecond (s : State) : State :=
  match s.trk.prevRef, s.trk.openMsg with
  | some p, none => judge (s.trk.refSecond (p.instant + ownSecond) none) .notGood s
  | _, _ => s

/-- REFP_EDGE (R22). -/
def execRefpEdge (t : Instant) (s : State) : Host.Outcome State Fault Refusal := .next (whenRunning (refpEdge t) s)

/-- REFERENCE_MESSAGE (R21): the ninth character completes. -/
def execReferenceMessage (ninth : Byte) (s : State) : Host.Outcome State Fault Refusal :=
  .next (whenRunning (refdCharacter ninth) s)

/-- REFD_CHARACTER (R20). -/
def execRefdCharacter (c : Byte) (s : State) : Host.Outcome State Fault Refusal :=
  .next (whenRunning (refdCharacter c) s)

/-- REFD_FRAMING_ERROR (R20): the open message is missing. -/
def execRefdFramingError (s : State) : Host.Outcome State Fault Refusal := .next (whenRunning (endMessage none) s)

/-- MESSAGE_WINDOW_EXPIRY (R20): the open message is missing. -/
def execMessageWindowExpiry (s : State) : Host.Outcome State Fault Refusal := .next (whenRunning (endMessage none) s)

/-- NOTIONAL_REFERENCE_SECOND (R22). -/
def execNotionalReferenceSecond (s : State) : Host.Outcome State Fault Refusal := .next (whenRunning notionalSecond s)

/-! ### The tracker at an own edge (R24, R25, R31, R33, R34) -/

/-- The instant of the next own edge: an accepted REFP edge, or 1000 ms after the anchor (R24). After a realign whose edge E
came more than 995 ms before the boundary it lies before the realign's own instant, 5 ms after the boundary: that the own edge
is given there all the same is the model's choice (log 34). -/
def Tracker.nextEdge (t : Tracker) : Instant := t.accepted.getD (t.anchor + ownSecond)

/-- The next own edge is an own minute boundary (R25). -/
def Tracker.boundaryNext (t : Tracker) : Bool := t.countValid && t.inLastSecond

/-- At the next own edge the count passes from second 47 to second 48 (R53). -/
def Tracker.freezeNext (t : Tracker) : Bool := t.countValid && t.second == 47 && !t.inLastSecond

/-- At the next own edge the holdover count reaches 3600 in HOLDOVER (R31). -/
def Tracker.expiresNext (t : Tracker) : Bool := t.refState == .holdover && decide (3600 ≤ t.holdover + 1)

/-- The next own edge begins 00:00:00 (R34). -/
def Tracker.dayEndsNext (t : Tracker) : Bool := t.boundaryNext && t.nextCount.minute % 1440 == 0

/-- At the next own edge the count reaches 23:58:48 (R33). -/
def Tracker.planFreezesNext (t : Tracker) : Bool := t.freezeNext && t.minute % 1440 == 1438

/-- The tracker after its next own edge: the edge becomes the anchor, the count advances, the holdover count advances
in HOLDOVER, the plan is frozen at 23:58:48, and set to NONE and unfrozen at 00:00:00. That the good run stays where the edge
makes HOLDOVER EXPIRED (R31, R32) is the model's choice (log 22). -/
def Tracker.atEdge (t : Tracker) : Tracker :=
  { t with
    anchor := t.nextEdge
    lastEdge := t.nextEdge
    byOscillator := t.accepted.isNone
    accepted := none
    validAtEdge := t.countValid
    minute := if t.countValid then t.nextCount.minute else t.minute
    second := if t.countValid then t.nextCount.second else t.second
    marks := (⟨t.nextEdge, if t.countValid then some t.nextCount else none⟩ :: t.marks).take 4
    realignDue := t.boundaryNext && t.armed
    holdover := if t.refState = .holdover then min 3600 (t.holdover + 1) else t.holdover
    refState := if t.expiresNext then .expired else t.refState
    plan := if t.dayEndsNext then .none else t.plan
    planFrozen := if t.dayEndsNext then false else t.planFrozen || t.planFreezesNext }

/-- The tracker's part of an own edge, with its events REF_EXPIRED (R31) and LEAP_APPLIED (R34). That LEAP_APPLIED goes by
the plan's value there, also where a realign set the count to a second of 23:59 that the plan does not lead through, is the
model's choice (log 37). -/
def trackerEdge (s : State) : State :=
  let t := s.trk
  (({ s with trk := t.atEdge }).raiseIf t.expiresNext .refExpired).raiseIf (t.dayEndsNext && t.plan != LeapPlan.none)
    .leapApplied

end Sys2Proof.Machine
end

