-- ==== Sys2Proof/Machine/Lanes.lean ====
section
/-! DEFINITION. The message store and the announcement lanes (chapter 9): the DESC commands (R144 to R147), arrival
(R150), the choice at the freeze (R151, R152), credit, repeats, write-back and the countdown (R153 to R157), and the
LANE commands (R160 to R162). -/

namespace Sys2Proof.Machine

/-! ### Reading and writing the store and the lanes -/

/-- A descriptor. -/
def State.desc (i : DescIndex) (s : State) : Descriptor := s.store[i]

/-- Replace a descriptor. -/
def State.setDesc (i : DescIndex) (d : Descriptor) (s : State) : State := { s with store := s.store.set i d }

/-- A lane. -/
def State.laneAt (l : LaneNo) (s : State) : Lane := s.lanes.lane[l]

/-- Replace a lane. -/
def State.setLane (l : LaneNo) (x : Lane) (s : State) : State :=
  { s with lanes := { s.lanes with lane := s.lanes.lane.set l x } }

/-- A lane event: the latch is set and the lane is recorded as that of the last lane event (R164). -/
def State.laneEvent (l : LaneNo) (e : Event) (s : State) : State :=
  { s with lanes := { s.lanes with lastEvent := some l } }.raise e

/-- A descriptor index as a frame carries it (R176). -/
def descIndexOf (b : Byte) : Option DescIndex := if h : b.toNat < 128 then some ⟨b.toNat, h⟩ else none

/-- A lane number as a frame carries it (R176). -/
def laneNoOf (b : Byte) : Option LaneNo := if h : b.toNat < 4 then some ⟨b.toNat, h⟩ else none

/-- Release every claim of a lane, owners unchanged (R160, R162). -/
def releaseClaims (l : LaneNo) (store : Vector Descriptor 128) : Vector Descriptor 128 :=
  store.map fun d => if d.claim = some l then { d with claim := none } else d

/-- The lane numbers in order. -/
def allLanes : List LaneNo := [0, 1, 2, 3]

/-! ### Arrival (R150) -/

/-- A lane arrives where its cursor now points (R150, Table 9.4). A STOPPED lane that arrives by credit stays STOPPED:
a NONE link empties its cursor, a successful arrival claims as for any lane, and the failing cases change nothing. -/
def arrive (l : LaneNo) (byCredit : Bool) (s : State) : State :=
  let x := s.laneAt l
  let stays := byCredit && x.state == .stopped
  match x.cursor with
  | none => s.setLane l { x with state := .stopped }
  | some i =>
    let d := s.desc i
    match d.owner with
    | .controller => if stays then s else (s.setLane l { x with state := .starved }).laneEvent l .laneStarved
    | .generator =>
      if d.claim = none ∨ d.claim = some l then
        let moved : LaneState :=
          if stays then .stopped else if 0 < x.countdown then .waiting else .running
        let taken := if x.start = some i ∧ x.repeats = none then some d.repeats else x.repeats
        (s.setDesc i { d with claim := some l }).setLane l { x with state := moved, repeats := taken }
      else if stays then s
      else (s.setLane l { x with state := .faulted }).laneEvent l .laneFault

/-! ### The choice at the freeze (R151, R152) -/

/-- The expected segment number at a lane's cursor (R151). -/
def Lane.expected (x : Lane) : Nat :=
  match x.lastSeg with
  | none => 0
  | some n => n + 1

/-- The cursor descriptor `d` of lane `l` is malformed, given the announcement start descriptor (R151). -/
def malformed (l : LaneNo) (x : Lane) (d start : Descriptor) : Bool :=
  (d.claim.isSome && d.claim != some l)
    || d.annId != start.annId
    || d.segNo != x.expected
    || d.lastSeg != start.lastSeg
    || decide (d.lastSeg < d.segNo)
    || d.endFlag != (d.segNo == d.lastSeg)

/-- The lane order at a freeze (R149). -/
def State.laneOrder (s : State) : List LaneNo :=
  match s.straps.order with
  | .fixed => allLanes
  | .rotate => s.lanes.rotation

/-- Examine one lane at a freeze: a RUNNING lane with a malformed cursor descriptor is FAULTED; one that is well-formed,
GENERATOR-owned and claimed by the lane is a candidate, and the first candidate is kept (R151). -/
def examineLane (acc : State × Option (LaneNo × DescIndex)) (l : LaneNo) : State × Option (LaneNo × DescIndex) :=
  let s := acc.1
  let x := s.laneAt l
  match x.state, x.cursor, x.start with
  | .running, some i, some st =>
    let d := s.desc i
    if malformed l x d (s.desc st) then ((s.setLane l { x with state := .faulted }).laneEvent l .laneFault, acc.2)
    else if d.owner = .generator ∧ d.claim = some l ∧ acc.2 = none then (s, some (l, i))
    else acc
  | _, _, _ => acc

/-- The offered descriptor is the final segment of the final airing (R152). -/
def finalAiring (x : Lane) (d : Descriptor) : Bool :=
  d.endFlag
    && (match x.repeats with
      | some n => n != 0 && x.airings + 1 == n
      | none => false)

/-- The choice of segment at a freeze (R151), with ANNOUNCE_DONE for a lane whose report point is FROZEN (R152). -/
def laneChoice (s : State) : State × Option (LaneNo × DescIndex) :=
  let r := s.laneOrder.foldl examineLane (s, none)
  match r.2 with
  | none => r
  | some (l, i) =>
    let x := r.1.laneAt l
    if x.report = .frozen ∧ finalAiring x (r.1.desc i) then (r.1.laneEvent l .announceDone, r.2) else r

/-! ### Credit, repeats and write-back (R153 to R157) -/

/-- A lane matches a record's header (R153). -/
def laneMatches (s : State) (h : AirHeader) (l : LaneNo) : Bool :=
  let x := s.laneAt l
  match x.cursor with
  | none => false
  | some i =>
    let d := s.desc i
    x.state != .faulted && d.owner == .generator && d.claim == some l && d.annId == h.annId && d.segNo == h.segNo

/-- The lane that a record credits, if any (R153): the retired draft's when it matches, else the lowest that does. -/
def creditedLane (s : State) (r : AirRecord) (retired : Option Draft) : Option LaneNo :=
  match r.header with
  | none => none
  | some h =>
    if r.complete && r.segmentCheck == some true && h.annId != 0 then
      match (retired.bind Draft.coded).bind CodedPart.segment with
      | some seg => if laneMatches s h seg.lane then some seg.lane else allLanes.find? (laneMatches s h)
      | none => allLanes.find? (laneMatches s h)
    else none

/-- Under ROTATE a credited lane moves to the back of the rotation order (R149). -/
def rotateTo (order : LaneOrder) (l : LaneNo) (rotation : List LaneNo) : List LaneNo :=
  match order with
  | .fixed => rotation
  | .rotate => (rotation.filter fun x => x != l) ++ [l]

/-- The write-back of a lane whose repeats are exhausted; `link` is the end descriptor's next link (R156). -/
def writeBack (l : LaneNo) (link : Option DescIndex) (s : State) : State :=
  let s1 : State :=
    { s with
      store := s.store.map fun d => if d.claim = some l then { d with owner := .controller, claim := none } else d }
  let x := s1.laneAt l
  let s2 := if x.report = .aired then s1.laneEvent l .announceDone else s1
  arrive l true
    (s2.setLane l
      { x with cursor := link, start := link, airings := 0, repeats := none, lastSeg := none, countdown := 0 })

/-- Airings done after one more (R155): held at 15 when the announcement airs until stopped. -/
def airingsAfter (x : Lane) : Nat := if x.repeats = some 0 then min 15 (x.airings + 1) else x.airings + 1

/-- Repeats remain after an airing (R155). -/
def repeatsRemain (x : Lane) : Bool :=
  match x.repeats with
  | some 0 => true
  | some n => decide (airingsAfter x < n)
  | none => false

/-- The credit of an end-flag descriptor (R155). -/
def creditEnd (l : LaneNo) (link : Option DescIndex) (s : State) : State :=
  let x := s.laneAt l
  if repeatsRemain x then
    s.setLane l
      { x with
        airings := airingsAfter x
        cursor := x.start
        lastSeg := none
        countdown := x.spacing
        state := if x.state = .stopped then .stopped else if x.spacing = 0 then .running else .waiting }
  else writeBack l link (s.setLane l { x with airings := airingsAfter x })

/-- A credit of lane `l`, whose cursor is `i` (R154). -/
def credit (l : LaneNo) (i : DescIndex) (s : State) : State :=
  let d := s.desc i
  let x := s.laneAt l
  let s1 := s.setDesc i { d with aired := min 65535 (d.aired + 1) }
  let s2 : State := { s1 with lanes := { s1.lanes with rotation := rotateTo s.straps.order l s1.lanes.rotation } }
  let s3 := s2.setLane l { x with lastSeg := some d.segNo }
  if d.endFlag then creditEnd l d.link s3
  else arrive l true (s3.setLane l { x with lastSeg := some d.segNo, countdown := 0, cursor := d.link })

/-- At an own minute boundary the lane controller takes the record just closed (R153). -/
def takeCredit (record : Option AirRecord) (retired : Option Draft) (s : State) : State :=
  match record with
  | none => s
  | some r =>
    match creditedLane s r retired with
    | none => s
    | some l =>
      match (s.laneAt l).cursor with
      | none => s
      | some i => credit l i s

/-- The countdown of a WAITING lane at an own minute boundary (R157). -/
def Lane.tickDown (x : Lane) : Lane :=
  if x.state = .waiting then
    { x with countdown := x.countdown - 1, state := if x.countdown - 1 = 0 then .running else .waiting }
  else x

/-- Lower the countdown of every WAITING lane (R157). It is taken before the boundary's credit, so that a lane made
WAITING by the credit starts counting at the next boundary (log 11). -/
def countdowns (s : State) : State := { s with lanes := { s.lanes with lane := s.lanes.lane.map Lane.tickDown } }

/-! ### The DESC commands (R144 to R147) -/

/-- A next link as DESC WRITE carries it: none of the two readings is an index out of range (R177). -/
def linkOf (b : Byte) : Option (Option DescIndex) :=
  if b = 0xFF then some none else (descIndexOf b).map some

/-- A yes or no as a frame carries it (R176). -/
def flagOf (b : Byte) : Option Bool := if b = 0 then some false else if b = 1 then some true else none

/-- The cue list of DESC WRITE; entries beyond the count are ignored (R177). -/
def cuesOf (b : DescBody) : Option (List Cue) :=
  let c1 : Cue := ⟨b.cue1Second.toNat, b.cue1Value.toNat⟩
  let c2 : Cue := ⟨b.cue2Second.toNat, b.cue2Value.toNat⟩
  let ok (c : Cue) : Bool :=
    decide (1 ≤ c.second) && decide (c.second ≤ 56) && decide (1 ≤ c.value) && decide (c.value ≤ 15)
  if b.cueCount = 0 then some []
  else if b.cueCount = 1 then if ok c1 then some [c1] else none
  else if b.cueCount = 2 then if ok c1 && ok c2 && c1.second != c2.second then some [c1, c2] else none
  else none

/-- The descriptor after DESC WRITE, if every value lies in its range (R144, R177). -/
def descWritten (b : DescBody) (d : Descriptor) : Option Descriptor :=
  match flagOf b.endFlag, linkOf b.next, cuesOf b with
  | some e, some link, some cues =>
    if b.annId ≠ 0 ∧ b.segNo.toNat ≤ 31 ∧ b.lastSeg.toNat ≤ 31 ∧ b.repeats.toNat ≤ 15 then
      some
        { d with
          annId := b.annId.toNat
          segNo := b.segNo.toNat
          lastSeg := b.lastSeg.toNat
          repeats := b.repeats.toNat
          endFlag := e
          link := link
          cues := cues
          payload := b.payload.toList }
    else none
  | _, _, _ => none

/-- DESC WRITE: the index first, then the owner, then the values (R144). -/
def descWrite (b : DescBody) (s : State) : Status × State :=
  match descIndexOf b.index with
  | none => (.range, s)
  | some i =>
    match (s.desc i).owner with
    | .generator => (.owner, s)
    | .controller =>
      match descWritten b (s.desc i) with
      | none => (.range, s)
      | some d => (.done, s.setDesc i d)

/-- The handing of a descriptor ends the starvation of the lanes that stand at it, lowest first (R145). -/
def endStarvation (i : DescIndex) (s : State) (l : LaneNo) : State :=
  if (s.laneAt l).state = .starved ∧ (s.laneAt l).cursor = some i then arrive l false s else s

/-- DESC HAND (R145): the lowest-numbered of the lanes that starve at the descriptor arrives there first. That the others
follow in ascending order, which decides the lane of the last lane event (R164), is the model's choice (log 35). -/
def descHand (b : Byte) (s : State) : Status × State :=
  match descIndexOf b with
  | none => (.range, s)
  | some i =>
    let d := s.desc i
    if d.lastSeg < d.segNo ∨ d.annId = 0 then (.range, s)
    else
      match d.owner with
      | .generator => (.owner, s)
      | .controller => (.done, allLanes.foldl (endStarvation i) (s.setDesc i { d with owner := .generator }))

/-- A lane state whose claims cannot be recalled (R146). -/
def LaneState.holdsClaims : LaneState → Bool
  | .running => true
  | .waiting => true
  | .starved => true
  | .stopped => false
  | .faulted => false

/-- DESC RECALL (R146). -/
def descRecall (b : Byte) (s : State) : Status × State :=
  match descIndexOf b with
  | none => (.range, s)
  | some i =>
    let d := s.desc i
    match d.owner with
    | .controller => (.owner, s)
    | .generator =>
      match d.claim with
      | some l =>
        if (s.laneAt l).state.holdsClaims then (.state, s)
        else (.done, s.setDesc i { d with owner := .controller, claim := none })
      | none => (.done, s.setDesc i { d with owner := .controller, claim := none })

/-! ### The LANE commands (R160 to R162) -/

/-- A report point as a frame carries it (R176). -/
def reportOf (b : Byte) : Option ReportPoint := if b = 0 then some .frozen else if b = 1 then some .aired else none

/-- LANE START (R160). -/
def laneStart (lane head spacing report : Byte) (s : State) : Status × State :=
  match laneNoOf lane, descIndexOf head, reportOf report with
  | some l, some i, some r =>
    let x := s.laneAt l
    if x.state = .stopped ∨ x.state = .faulted then
      let s1 : State := { s with store := releaseClaims l s.store }
      (.done,
        arrive l false
          (s1.setLane l
            { x with
              start := some i
              cursor := some i
              spacing := spacing.toNat
              report := r
              airings := 0
              repeats := none
              countdown := 0
              lastSeg := none }))
    else (.state, s)
  | _, _, _ => (.range, s)

/-- LANE STOP (R161). -/
def laneStop (lane : Byte) (s : State) : Status × State :=
  match laneNoOf lane with
  | none => (.range, s)
  | some l => (.done, s.setLane l { s.laneAt l with state := .stopped })

/-- LANE RESUME (R161). -/
def laneResume (lane : Byte) (s : State) : Status × State :=
  match laneNoOf lane with
  | none => (.range, s)
  | some l =>
    if (s.laneAt l).state = .stopped ∧ (s.laneAt l).cursor ≠ none then (.done, arrive l false s) else (.state, s)

/-- LANE CLEAR (R162). -/
def laneClear (lane : Byte) (s : State) : Status × State :=
  match laneNoOf lane with
  | none => (.range, s)
  | some l =>
    let x := s.laneAt l
    if x.state = .running ∨ x.state = .waiting then (.state, s)
    else
      let s1 : State := { s with store := releaseClaims l s.store }
      (.done,
        s1.setLane l
          { x with
            state := .stopped
            cursor := none
            start := none
            airings := 0
            repeats := none
            countdown := 0
            lastSeg := none })

end Sys2Proof.Machine
end

