-- ==== Sys2Proof/Machine/Draft.lean ====
section
/-! DEFINITION. The minute draft (chapter 4): the digest (R63, R64), participation (R62), and the freeze (R53 to R61)
with the concord record it creates (R89) and the proof minute it designates (R118). -/

namespace Sys2Proof.Machine

/-! ### The digest (R63, R64) -/

/-- The code of a symbol in the digest image (R63). -/
def Symbol.code : Symbol → Nat
  | .zero => 0
  | .one => 1
  | .mark => 2
  | .split => 3

/-- Four symbol codes as one byte, the first in the two highest bits (R63). -/
def packCodes (a b c d : Nat) : Byte := BitVec.ofNat 8 (64 * a + 16 * b + 4 * c + d)

/-- The symbol row packed four symbols to a byte, the bits left over 0 (R63). -/
def packRow : List Symbol → List Byte
  | a :: b :: c :: d :: rest => packCodes a.code b.code c.code d.code :: packRow rest
  | [a, b, c] => [packCodes a.code b.code c.code 0]
  | [a, b] => [packCodes a.code b.code 0 0]
  | [a] => [packCodes a.code 0 0 0]
  | [] => []

/-- The digest image: of a CODED draft its symbol count, its packed row and its segment, of a STEADY draft the
single byte 00h (R63). -/
def digestImage (coded : Option CodedPart) : List Byte :=
  match coded with
  | none => [0#8]
  | some c =>
    BitVec.ofNat 8 c.symbolCount :: packRow c.row
      ++ (match c.segment with
        | some seg => seg.payload ++ [seg.check]
        | none => [])

/-- One bit of the digest's cyclic check (R64). -/
def crc32Bit (reg : Word32) (bit : Bool) : Word32 :=
  if reg.msb != bit then (reg <<< 1) ^^^ 0x04C11DB7#32 else reg <<< 1

/-- The 32-bit cyclic check of an image (R64). -/
def crc32 (image : List Byte) : Word32 := ~~~ ((image.flatMap byteBits).foldl crc32Bit 0xFFFFFFFF#32)

/-! ### What the freeze reads -/

/-- NEXT is a participant's draft (R62). The start interval is over whenever a freeze takes place. -/
def participates (ref : RefState) (key : KeyState) : Bool :=
  (ref == .locked || ref == .holdover) && key != .fenced

/-- The window record of second 47, when the window of the own second that the freeze edge ends was read (R57).
`read` says that this second's window was opened and has been closed. -/
def requestRecord (read : Bool) (r : Option WindowRecord) : Option WindowRecord :=
  r.filter fun w => read && w.second == some 47

/-- STEADY was decided in the window of second 47 (R57). -/
def steadyDecided (read : Bool) (r : Option WindowRecord) : Bool :=
  match requestRecord read r with
  | some w => w.steady
  | none => false

/-- QUIET was decided in the window of second 47 (R57). -/
def quietDecided (read : Bool) (r : Option WindowRecord) : Bool :=
  match requestRecord read r with
  | some w => w.quiet
  | none => false

/-! ### Forming the draft (R51, R54 to R60) -/

/-- The segment fields copied from a descriptor, with the check byte (R11) and the phase stream (R58, R59). -/
def segmentOf (l : LaneNo) (i : DescIndex) (d : Descriptor) : SegmentPart :=
  { lane := l
    index := i
    payload := d.payload
    check := crc8 d.payload
    cues := d.cues
    stream := phaseStream d.payload (crc8 d.payload) }

/-- The fields of a CODED draft (R54 to R59). `chosen` is the lane controller's answer. -/
def codedPart (civil : CivilFields) (quality : Bool) (symbolCount : Nat)
    (chosen : Option (LaneNo × DescIndex × Descriptor)) : CodedPart :=
  let annId := (chosen.map fun c => c.2.2.annId).getD 0
  let segNo := (chosen.map fun c => c.2.2.segNo).getD 0
  let lastSeg := (chosen.map fun c => c.2.2.lastSeg).getD 0
  { symbolCount := symbolCount
    civil := civil
    quality := quality
    annId := annId
    segNo := segNo
    lastSeg := lastSeg
    row := symbolRow civil quality annId segNo lastSeg symbolCount
    segment := chosen.map fun c => segmentOf c.1 c.2.1 c.2.2 }

/-- A draft complete with its digest (R51, R60). -/
def draftOf (minute : Nat) (coded : Option CodedPart) (ref : RefState) (key : KeyState) : Draft :=
  { minute := minute
    coded := coded
    digest := crc32 (digestImage coded)
    participant := participates ref key
    refState := ref
    keyState := key }

/-- The concord record created at a freeze (R89). -/
def ConcordRecord.fresh (d : Draft) : ConcordRecord :=
  { minute := d.minute
    outcome := .pending
    digest := none
    tally := 0
    passesUsed := 0
    role := none
    assenting := 0
    standing := some (if d.participant then .contender else .observer)
    nextPass := some 1 }

/-- The lane controller's answer, with the descriptor it names; it is not asked when QUIET was decided (R57, R58). -/
def askLanes (quiet : Bool) (s : State) : State × Option (LaneNo × DescIndex × Descriptor) :=
  if quiet then (s, none)
  else
    let r := laneChoice s
    (r.1, r.2.map fun c => (c.1, c.2, r.1.desc c.2))

/-- NEXT comes into being with its record, and is the proof minute's draft when it is the first frozen in PROVING
(R52, R89, R118). -/
def holdNext (d : Draft) (s : State) : State :=
  { s with
    next := some d
    nextRec := some (.fresh d)
    key :=
      if s.key.state = .proving ∧ s.key.proof.minute = none then
        { s.key with proof := { s.key.proof with minute := some d.minute } }
      else s.key }

/-- The freeze at an own edge of second 48, the count and the plan as they stand after that edge (R53 to R62). `key`
is the key state the freeze reads, `read` whether this second's window was read. -/
def freeze (key : KeyState) (read : Bool) (s : State) : State :=
  let m := s.trk.minute + 1
  if lastMinute < m then s
  else if steadyDecided read s.winRec then holdNext (draftOf m none s.trk.refState key) s
  else
    let r := askLanes (quietDecided read s.winRec) s
    let civil := civilFields s.straps.offset s.zone s.trk.plan m
    let coded := codedPart civil (s.trk.refState == .holdover) (minuteLength m s.trk.plan) r.2
    holdNext (draftOf m (some coded) s.trk.refState key) r.1

/-- At each own edge of second 48 the assent pass field is set to none in every row (R79). -/
def clearAssentPasses (s : State) : State :=
  { s with peers := s.peers.map fun row => { row with assentPass := none } }

end Sys2Proof.Machine
end

