-- ==== Sys2Proof/Machine/Contest.lean ====
section
/-! DEFINITION. The contest unit (chapter 6): pass windows (R91), the decision on a pass (R94, R99), roles and events
(R96, R97), missed windows (R99), and the records at the own minute boundary (R101). -/

namespace Sys2Proof.Machine

/-! ### Which window it is -/

/-- The number of the window of the own second in progress, or none when it is unnumbered (R71). -/
def State.windowNumber (s : State) : Option Nat :=
  if s.trk.validAtEdge && s.trk.countValid then some s.trk.second else none

/-- The window is that of the last second of the minute (R78). -/
def State.lastSecondWindow (s : State) : Bool := s.windowNumber.isSome && s.trk.inLastSecond

/-- The pass that the window of a second carries (R91). -/
def passOfSecond (k : Nat) : Option Nat :=
  if k = 50 then some 1 else if k = 51 then some 2 else if k = 52 then some 3 else none

/-- The pass that the window in progress carries, if it is a pass window (R91). -/
def State.windowPass (s : State) : Option Nat := s.windowNumber.bind passOfSecond

/-! ### The decision on a pass -/

/-- The quorum of a roll (R90). -/
def quorum (roll : Nat) : Nat := roll / 2 + 1

/-- The own role when an outcome is set; `equal` says that the unit's digest equals the pass result (R96). -/
def roleFor (participant : Bool) (outcome : RecordOutcome) (equal : Bool) : Role :=
  if !participant then .abstain else if outcome = .concord ∧ equal then .assent else .dissent

/-- A reading of a pass window: its pass, its result, its assenting positions. -/
structure PassReading where
  pass : Nat
  result : Word32
  assenting : PosSet
  deriving DecidableEq, Repr

/-- The tally of a pass (R93). -/
def PassReading.tally (r : PassReading) : Nat := posCount r.assenting

/-- A record decided on a pass reading: outcome, digest, tally, passes used, assenting positions and role (R94, R96,
R99). -/
def ConcordRecord.decided (r : ConcordRecord) (outcome : RecordOutcome) (p : PassReading) (participant equal : Bool) :
    ConcordRecord :=
  { r with
    outcome := outcome
    digest := if outcome = .concord then some p.result else none
    tally := p.tally
    passesUsed := p.pass
    role := some (roleFor participant outcome equal)
    assenting := p.assenting
    standing := some .decided
    nextPass := none }

/-- What a PENDING record becomes at the sample point of cell 60 of a pass window (R94); a BLIND record learns only
what R99 lets it learn. -/
def ConcordRecord.onPass (roll : Nat) (r : ConcordRecord) (p : PassReading) (participant equal : Bool) :
    ConcordRecord :=
  if r.outcome ≠ .pending then r
  else if quorum roll ≤ p.tally then r.decided .concord p participant equal
  else if r.standing = some .blind then
    if p.pass = 3 ∧ 1 ≤ p.tally then r.decided .none p participant equal else r
  else if p.tally = 0 ∨ p.pass = 3 then r.decided .none p participant equal
  else
    { r with
      nextPass := some (p.pass + 1)
      standing := if r.standing = some .contender ∧ equal then some .left else r.standing }

/-- HOLDING becomes YIELDING, every other key state stays (R111). -/
def KeyCtl.yield (k : KeyCtl) : KeyCtl := if k.state = .holding then { k with state := .yielding } else k

/-- The events of a decision (R97) and the yield of a holder whose NEXT reached CONCORD without it (R111). -/
def decisionEffects (before after : ConcordRecord) (participant : Bool) (s : State) : State :=
  if before.outcome = .pending ∧ after.outcome ≠ .pending then
    let s1 : State :=
      if after.outcome = .concord ∧ after.role ≠ some .assent then { s with key := s.key.yield } else s
    (s1.raiseIf (after.role == some .dissent) .dissent).raiseIf (after.outcome == .none && participant) .noConcord
  else s

/-- The decision on a pass from its reading (R94 to R97, R99, R103). -/
def decidePass (p : PassReading) (s : State) : State :=
  match s.nextRec, s.next with
  | some r, some d =>
    let after := r.onPass s.straps.roll p d.participant (decide (d.digest = p.result))
    decisionEffects r after d.participant { s with nextRec := some after }
  | _, _ => s

/-! ### Missed windows and the boundary -/

/-- The window of the own second in progress is missed: a PENDING record whose next pass it carries becomes BLIND
(R99). -/
def missPass (s : State) : State :=
  match s.windowPass, s.nextRec with
  | some p, some r =>
    if r.outcome = .pending ∧ r.nextPass = some p then
      { s with nextRec := some { r with standing := some .blind } }
    else s
  | _, _ => s

/-- The record as it becomes the CURRENT record: a PENDING one is closed, and standing and next pass are dropped
(R101). -/
def ConcordRecord.handedOver (r : ConcordRecord) : ConcordRecord :=
  let r1 :=
    if r.outcome = .pending then
      { r with
        outcome := .none
        digest := none
        tally := 0
        passesUsed := 0
        role := some .abstain
        assenting := 0 }
    else r
  { r1 with standing := none, nextPass := none }

/-- The hand-over at an own minute boundary: drafts and records (R65, R101). A NEXT that becomes CURRENT is noted for the
flag standing (R81). -/
def handOver (s : State) : State :=
  { s with
    handedOver := s.handedOver || s.next.isSome
    current := s.next
    next := none
    curRec := s.nextRec.map ConcordRecord.handedOver
    nextRec := none }

end Sys2Proof.Machine
end

