-- ==== Sys2Proof/Machine/Key.lean ====
section
/-! DEFINITION. The key controller (chapter 7): vacancy and bid (R107 to R110), the yield (R111, R112), accusation
(R115, R116), what an own edge and an own minute boundary do to the key state (R110, R112, R114, R115, R121), the
proof minute (R118 to R120), and the commands KEY YIELD and READMIT. -/

namespace Sys2Proof.Machine

/-! ### Vacancy and bid -/

/-- A vacancy is seen at the sample point of cell 20 (R107). -/
def vacancySeen (w : Window) (beaconAbsent : Bool) : Bool :=
  (w.hold == 0 && w.yieldSet) || (w.hold == 0 && beaconAbsent) || w.shadow == .unanimous

/-- The concord record of the minute of the coming second (R108). -/
def State.comingRecord (s : State) : Option ConcordRecord := if s.lastSecondWindow then s.nextRec else s.curRec

/-- The unit is eligible to bid (R108), a vacancy being seen. -/
def State.eligible (s : State) : Bool :=
  s.key.state == .standby && !s.key.bidBar && s.win.alignment == some .aligned && s.key.pendingTake.isNone
    && assents s.comingRecord

/-- The bid value (R109). -/
def Straps.bidValue (x : Straps) : BitVec 5 := BitVec.ofNat 5 (8 * x.precedence.val + x.position.val)

/-- A bid won: the take is pending for the next own edge, named by the second it begins (R110). -/
def winBid (s : State) : State := { s with key := { s.key with pendingTake := some s.trk.nextCount.second } }

/-! ### Yield -/

/-- The yield is resolved by a BIDDING reading (R112). It concerns a unit that was YIELDING at the own window start of
the last second and still is, and it is done once: the window keeps that it was. -/
def resolveYield (bidding : Bool) (s : State) : State :=
  if s.lastSecondWindow ∧ s.win.atStart.map WindowStart.key = some .yielding ∧ s.key.state = .yielding then
    let s1 : State := { s with win := { s.win with yieldResolved := true } }
    if bidding then { s1 with key := { s.key with pendingRelease := true } }
    else { s1 with key := { s.key with state := .holding } }.raise .yieldCancelled
  else s

/-- KEY YIELD (R111). -/
def keyYield (s : State) : Status × State :=
  if s.key.state = .holding then (.done, { s with key := s.key.yield }) else (.state, s)

/-! ### Accusation -/

/-- The unit is accused by a UNANIMOUS outcome: it has been the holder since the edge before the last (R115). -/
def KeyCtl.accusable (k : KeyCtl) : Bool := k.state.isHolder && decide (2 ≤ k.heldEdges)

/-- The unit drove ACCUSE in the window (R82, R116). -/
def Window.droveAccuse (w : Window) : Bool :=
  w.alignment == some .aligned && w.atStart.map WindowStart.report == some .accuse

/-- The SHADOW outcome reaches the key controller (R115, R116). An accuser is a comparer, which is in STANDBY. -/
def takeShadow (s : State) : State :=
  let k := s.key
  match s.win.shadow with
  | .none => s
  | .unanimous => if k.accusable then { s with key := { k with pendingFence := true } } else s
  | .split =>
    if s.win.droveAccuse ∧ k.state = .standby then
      if 3 ≤ k.unsupported + 1 then
        ({ s with key := { k with unsupported := 0, state := .fenced } }.raise .shadowSplit).raise .fenced
      else { s with key := { k with unsupported := k.unsupported + 1 } }.raise .shadowSplit
    else s

/-! ### The own edge -/

/-- A YIELDING unit reaches its own minute boundary with the yield unresolved: the window of the last second was not
opened, or began with the unit YIELDING and its BIDDING cell was not read (R112, log 13). A yield that began after the
window's own yield was resolved waits for the next minute, as every yield that begins after the own window start (R111). -/
def Window.yieldUnread (w : Window) : Bool :=
  match w.atStart with
  | none => true
  | some a => a.key == .yielding && !w.yieldResolved

/-- What an own edge does to the key state: a pending fence (R115), a pending take (R110), and at an own minute boundary
a pending release or an unresolved yield (R112). A unit that stays the holder has been it for one edge more (R115). -/
def keyEdge (boundary : Bool) (s : State) : State :=
  let k := s.key
  if k.pendingFence then
    { s with
      key :=
        { k with
          state := .fenced, drivers := false, pendingFence := false, pendingRelease := false, heldEdges := 0 } }.raise
      .fenced
  else if k.pendingTake.isSome then
    { s with key := { k with state := .holding, drivers := true, pendingTake := none, heldEdges := 1 } }.raise .keyTaken
  else if boundary ∧ k.state = .yielding ∧ k.pendingRelease then
    { s with
      key := { k with state := .standby, drivers := false, pendingRelease := false, heldEdges := 0 } }.raise .keyReleased
  else if boundary ∧ k.state = .yielding ∧ s.win.yieldUnread then
    { s with key := { k with state := .holding, heldEdges := min 2 (k.heldEdges + 1) } }.raise .yieldCancelled
  else { s with key := { k with heldEdges := if k.state.isHolder then min 2 (k.heldEdges + 1) else 0 } }

/-- At an own minute boundary the bid bar is cleared (R114), the listening count is advanced and a DORMANT unit that has
listened for two whole minutes with its reference LOCKED becomes STANDBY (R121). -/
def listenBoundary (s : State) : State :=
  let k := s.key
  let n := if k.listenOpen then min 2 (k.listening + 1) else k.listening
  { s with
    key :=
      { k with
        bidBar := false
        listening := n
        listenOpen := true
        state :=
          if k.state = .dormant ∧ n = 2 ∧ s.trk.refState = .locked then .standby else k.state } }

/-! ### Readmission and proof -/

/-- READMIT (R118). -/
def readmit (s : State) : Status × State :=
  if s.key.state = .fenced then (.done, { s with key := { s.key with state := .proving, proof := Proof.reset } })
  else (.state, s)

/-- A looped second is reported to the key controller (R119, R133). -/
def proofReport (matched : Bool) (s : State) : State :=
  let p := s.key.proof
  { s with
    key :=
      { s.key with
        proof := if matched then { p with matched := p.matched + 1 } else { p with missed := true } } }

/-- The proof succeeds (R120). `record` is the CURRENT record of the proof minute. -/
def proofGood (p : Proof) (record : Option ConcordRecord) : Bool := assents record && !p.missed && p.refHeld

/-- At the own minute boundary that ends the proof minute the proof is judged (R120). -/
def proofJudge (s : State) : State :=
  if s.key.proof.running ∧ s.key.state = .proving then
    if proofGood s.key.proof s.curRec then
      { s with key := { s.key with state := .standby, proof := Proof.reset } }.raise .proven
    else { s with key := { s.key with state := .fenced, proof := Proof.reset } }.raise .provingFailed
  else s

/-- The proof minute begins at the own minute boundary at which its draft becomes CURRENT (R119). -/
def proofBegin (s : State) : State :=
  if s.key.proof.minute.isSome then { s with key := { s.key with proof := { s.key.proof with running := true } } }
  else s

end Sys2Proof.Machine
end

