-- ==== Sys2Proof/Machine/Window.lean ====
section
/-! DEFINITION. The concord interface (chapter 5): SYNC and alignment (R71 to R74), the cells the unit drives (R76 to
R85, R92, R93, R109), the sample points (R70, R87, R88), and the close of a window (R75, R79, R88, R107, R116, R121,
R131). Here stand the meanings of the window's rows. -/

namespace Sys2Proof.Machine

/-! ### Instants -/

/-- The own window start of the own second in progress (R71). -/
def State.windowStart (s : State) : Instant := s.trk.lastEdge + ms 100

/-- The sample point of the cell in progress (R73). -/
def Window.samplePoint (w : Window) : Instant := w.sync.getD 0 + cellLength * w.cell + ms 3

/-- The window is in progress: its cells may be driven and read. -/
def Window.live (w : Window) : Bool := w.phase != .over && w.alignment.isSome

/-! ### The close -/

/-- A signed offset in tenths of a millisecond (R88). An offset between two tenths is recorded as one of the two: which
one is `Config.offsetRoundsUp` (log 9). -/
def offsetTenths (d : Int) : Int :=
  if d % 100 = 0 then d / 100 else if Config.offsetRoundsUp d then d / 100 + 1 else d / 100

/-- The window record at the close of a window that was read (R88). -/
def readRecord (s : State) (a : Alignment) : WindowRecord :=
  let w := s.win
  { second := s.windowNumber
    alignment := a
    syncDrive := w.syncDrive
    offset := w.sync.map fun t => offsetTenths ((t : Int) - (s.windowStart : Int))
    present := w.present
    hold := w.hold
    shadow := w.shadow
    steady := w.steady
    quiet := w.quiet
    yieldSet := w.yieldSet
    bidding := w.bidding }

/-- The record of a dead window (R88). -/
def deadRecord (s : State) : WindowRecord :=
  { second := s.windowNumber
    alignment := .dead
    syncDrive := s.win.syncDrive
    offset := none
    present := 0
    hold := 0
    shadow := .none
    steady := false
    quiet := false
    yieldSet := false
    bidding := false }

/-- A peer-table row at the close of a window (R79). -/
def PeerRow.closed (row : PeerRow) (present holding : Bool) : PeerRow :=
  { row with
    present := present
    holding := holding
    absentRun := if present then 0 else min 255 (row.absentRun + 1) }

/-- The peer table at the close of a window (R79). -/
def closedPeers (peers : Vector PeerRow 8) (present hold : PosSet) : Vector PeerRow 8 :=
  Vector.ofFn fun p => (peers[p]).closed (present.getLsbD p.val) (hold.getLsbD p.val)

/-- The askew run count at the close of a window (R75). -/
def nextAskewRun (run : Nat) : Alignment → Nat
  | .askew => min 255 (run + 1)
  | .aligned => 0
  | .dead => 0

/-- The keyers at the close of a numbered window (R131). -/
def addKeyers (r : WindowRecord) (m : Option OpenMinute) : Option OpenMinute :=
  if r.second.isSome then m.map fun m => { m with keyers := m.keyers ||| r.hold } else m

/-- The key controller's items at the close of a window (R75, R107, R116, R121, and the yield at five ASKEW windows,
R111). `splitAccused` says that the unit accused and the outcome was SPLIT. -/
def keyAtClose (r : WindowRecord) (splitAccused : Bool) (k : KeyCtl) : KeyCtl :=
  let run := nextAskewRun k.askewRun r.alignment
  let dead := r.alignment == .dead
  let k1 :=
    { k with
      askewRun := run
      beaconAbsent := r.hold == 0
      unsupported := if splitAccused then k.unsupported else 0
      listening := if dead then 0 else k.listening
      listenOpen := k.listenOpen && !dead }
  if r.alignment = .askew ∧ run = 5 then k1.yield else k1

/-- A window is closed with a record: the alignment, the peer table, the beacon-absent flag, the keyers and the window
record (R88); SKEW at the fifth ASKEW window of a run (R75). -/
def closeWith (r : WindowRecord) (splitAccused : Bool) (s : State) : State :=
  { s with
    key := keyAtClose r splitAccused s.key
    peers := closedPeers s.peers r.present r.hold
    winRec := some r
    dec := { s.dec with openMinute := addKeyers r s.dec.openMinute }
    win :=
      { Window.neutral .over with
        atStart := s.win.atStart, syncDriving := s.win.syncDriving, yieldResolved := s.win.yieldResolved } }.raiseIf
    (r.alignment == Alignment.askew && min 255 (s.key.askewRun + 1) == 5) .skew

/-- A yield whose last-second window closes dead before its BIDDING cell was read is cancelled, as BIDDING 0 (R112);
one that a pending fence ends at this edge is not (R115), nor one that began after the window's own was resolved (R111). -/
def cancelUnreadYield (s : State) : State :=
  if s.key.pendingRelease ∨ s.key.pendingFence ∨ s.win.yieldResolved then s else resolveYield false s

/-- The close of a window found dead (R74, R88): a pass it carried and the record still awaits is missed (R99). -/
def closeDead (s : State) : State := closeWith (deadRecord s) false (cancelUnreadYield (missPass s))

/-- A window cut by an own edge: both lines are released at once and it is closed as a dead window (R71, R74). -/
def closeCut (s : State) : State :=
  let s1 := closeDead s
  { s1 with win := { s1.win with syncDriving := false } }

/-- What an own edge does to the window of the second it ends: an open window is cut, one not yet open is not opened at
all and missed (R71, R99). -/
def endWindow (s : State) : State :=
  match s.win.phase with
  | .opened => closeCut s
  | .waiting => missPass s
  | .over => s

/-! ### SYNC -/

/-- The most recently frozen draft that the unit holds: NEXT, and CURRENT without one (R81). -/
def State.latestDraft (s : State) : Option Draft := s.next.or s.current

/-- The flag standing that an ALIGNED window gives (R81): the most recently frozen draft held is a participant's. From a
power-on, RSTN or RESTART to the next hand-over R81 says two things of a unit that has frozen a NEXT, and which of them holds
is left free: `Config.standingBeforeHandOver` (log 36). -/
def State.standing (s : State) : Bool :=
  (s.latestDraft.map Draft.participant).getD false && (s.handedOver || Config.standingBeforeHandOver)

/-- A SYNC edge was observed more than 2 ms before the own window start (R72). -/
def State.syncTooEarly (s : State) : Bool :=
  match s.win.sync with
  | some t => decide (t + ms 2 < s.windowStart)
  | none => false

/-- The own window start (R71, R72, R78, R81, R132). -/
def openWindow (s : State) : State :=
  if s.win.phase = .waiting then
    let drive := s.trk.refState == .locked && !s.syncTooEarly
    { s with
      win :=
        { s.win with
          phase := .opened
          atStart :=
            some ⟨s.key.state, s.trk.refState, s.standing, shadowReport s.key.state s.dec.evidence⟩
          syncDrive := if drive then .atStart else .notDriven
          syncDriving := drive } }
  else s

/-- The reference states that drive a late SYNC (R72). -/
def RefState.drivesLate : RefState → Bool
  | .holdover => true
  | .stepping => true
  | .expired => true
  | .acquiring => false
  | .locked => false

/-- A late SYNC, when no edge has been observed (R72). -/
def lateSync (s : State) : State :=
  match s.win.atStart with
  | some a =>
    if s.win.phase = .opened ∧ s.win.sync = none ∧ s.win.syncDrive = .notDriven ∧ a.ref.drivesLate then
      { s with win := { s.win with syncDrive := .late, syncDriving := true } }
    else s
  | none => s

/-- The SYNC drive ends (R72). -/
def syncDriveEnd (s : State) : State := { s with win := { s.win with syncDriving := false } }

/-- The instant lies in the watch interval (R73). -/
def State.watches (t : Instant) (s : State) : Bool :=
  decide (s.windowStart ≤ t + ms 20) && decide (t ≤ s.windowStart + ms 5)

/-- The alignment that an observed edge gives (R74). -/
def State.alignmentOf (t : Instant) (s : State) : Alignment :=
  if within (ms 2) t s.windowStart then .aligned
  else if s.win.syncDrive = .late ∧ t = s.windowStart + ms 3 then .aligned
  else .askew

/-- The first rising edge of CCO in the watch interval is the observed SYNC edge, and the alignment is decided (R73,
R74). -/
def observeSync (t : Instant) (s : State) : State :=
  if s.win.phase ≠ .over ∧ s.win.sync = none ∧ s.watches t then
    { s with win := { s.win with sync := some t, alignment := some (s.alignmentOf t) } }
  else s

/-- No SYNC edge has been observed by 5 ms after the own window start (R74). -/
def deadWindow (s : State) : State :=
  if s.win.phase = .opened ∧ s.win.sync = none then closeDead s else s

/-! ### What the unit drives in a cell -/

/-- A drive of the two lines: pull CCA low, drive CCO. -/
structure CellDrive where
  pullCca : Bool
  driveCco : Bool
  deriving DecidableEq, Repr

/-- Neutral (R70). -/
def CellDrive.neutral : CellDrive := ⟨false, false⟩

/-- Drive CCO if the condition holds. -/
def CellDrive.cco (c : Bool) : CellDrive := ⟨false, c⟩

/-- Pull CCA if the condition holds. -/
def CellDrive.cca (c : Bool) : CellDrive := ⟨c, false⟩

/-- The HOLD cell is driven (R78). -/
def State.drivesHold (a : WindowStart) (s : State) : Bool :=
  match a.key with
  | .holding => true
  | .yielding => !s.lastSecondWindow
  | .dormant => false
  | .standby => false
  | .fenced => false
  | .proving => false

/-- The unit contends in the pass this window carries (R91). -/
def State.contends (s : State) : Bool :=
  s.windowPass.isSome && s.next.isSome && s.nextRec.bind ConcordRecord.standing == some .contender

/-- A bit of the NEXT digest, bit 31 in cell 21 (R92). -/
def State.digestBit (cell : Nat) (s : State) : Bool := ((s.next.map Draft.digest).getD 0).getLsbD (52 - cell)

/-- What an ALIGNED unit drives in a cell after SYNC other than its PRESENT cell (Table 5.2). -/
def alignedDrive (a : WindowStart) (cell : Nat) (s : State) : CellDrive :=
  if cell = 2 + 2 * s.straps.position.val then .cco (s.drivesHold a)
  else if cell = 17 then
    match a.report with
    | .accuse => .cco true
    | .clear => .cca true
    | .none => .neutral
  else if cell = 18 then
    if a.standing then ⟨!s.req.steady, s.req.steady⟩ else .neutral
  else if cell = 19 then .cco (a.standing && s.req.quiet)
  else if cell = 20 then .cco (a.key == .yielding && s.lastSecondWindow)
  else if 21 ≤ cell ∧ cell ≤ 52 then .cca (s.win.digestDriving && !s.digestBit cell)
  else if cell = 53 + s.straps.position.val then .cco (s.contends && s.win.equalsResult)
  else if cell = 61 then .cco s.win.bidder
  else if 62 ≤ cell ∧ cell ≤ 66 then .cca (s.win.bidDriving && !s.straps.bidValue.getLsbD (66 - cell))
  else .neutral

/-- What the unit drives in the cell in progress (R74, R76, R77, Table 5.2). -/
def State.cellDrive (s : State) : CellDrive :=
  if s.win.cell = 1 + 2 * s.straps.position.val then .cco true
  else
    match s.win.alignment, s.win.atStart with
    | some .aligned, some a => alignedDrive a s.win.cell s
    | _, _ => .neutral

/-- Drive the cell in progress as the state and the role call for. -/
def State.driveCell (s : State) : State :=
  { s with win := { s.win with pullCca := s.cellDrive.pullCca, driveCco := s.cellDrive.driveCco } }

/-- The next cell begins (R73): the DIGEST field is entered at cell 21 (R92) and the BIDVALUE field at cell 62 (R109). -/
def cellStart (s : State) : State :=
  let w := s.win
  if w.live ∧ w.cell < 66 ∧ (w.cell = 0 ∨ w.sampled) then
    { s with
      win :=
        { w with
          cell := w.cell + 1
          sampled := false
          digestDriving :=
            if w.cell + 1 = 21 then w.alignment == some Alignment.aligned && s.contends else w.digestDriving
          bidDriving := if w.cell + 1 = 62 then w.bidder else w.bidDriving } }.driveCell
  else s

/-- A change of the local requests re-drives the STEADY or the QUIET cell in progress before its sample point (R86). -/
def redriveFlags (s : State) : State :=
  if s.win.live ∧ (s.win.cell = 18 ∨ s.win.cell = 19) ∧ !s.win.sampled then s.driveCell else s

/-! ### Reading a cell -/

/-- CCA as the unit reads it: 0 while any unit pulls it low (R70). -/
def Window.cca (w : Window) (o : OthersDrive) : Bool := !(w.pullCca || o.pullCca)

/-- CCO as the unit reads it: 1 while any unit drives it (R70). -/
def Window.cco (w : Window) (o : OthersDrive) : Bool := w.driveCco || w.syncDriving || o.driveCco

/-- The cell in progress is one of `first` to `last`, and its sample point has not passed. -/
def Window.awaits (w : Window) (first last : Nat) : Bool :=
  w.live && !w.sampled && decide (first ≤ w.cell) && decide (w.cell ≤ last)

/-- The key state that governs the HOLD cells of the window (R78, R113): the one that its own window start found, and before
that start the current one (log 24). -/
def State.holdKey (s : State) : KeyState := (s.win.atStart.map WindowStart.key).getD s.key.state

/-- A HOLD cell of position `p` that reads 1 is a collision for a holder (R113), and one of the own position raises
COLLISION in a unit that is not the holder (R114). -/
def takeHold (p : Nat) (s : State) : State :=
  if s.key.state.isHolder then
    if p ≠ s.straps.position.val ∨ (s.lastSecondWindow ∧ s.holdKey = .yielding) then
      s.collide s.win.samplePoint
    else s
  else if p = s.straps.position.val then s.raise .collision
  else s

/-- A PRESENT or HOLD cell is read (R77, R78, R113, R114). -/
def holdSample (o : OthersDrive) (s : State) : State :=
  let w := s.win
  if w.awaits 1 16 then
    let p := (w.cell - 1) / 2
    let one := w.cco o
    if w.cell % 2 = 1 then
      { s with win := { w with sampled := true, present := if one then w.present ||| posBit p else w.present } }
    else
      let s1 : State :=
        { s with win := { w with sampled := true, hold := if one then w.hold ||| posBit p else w.hold } }
      if one then takeHold p s1 else s1
  else s

/-- The outcome of the SHADOW cell (R82). -/
def shadowOutcome (cca cco : Bool) : ShadowOutcome :=
  if cco then if cca then .unanimous else .split else .none

/-- The SHADOW cell is read (R82, R115, R116). -/
def shadowSample (o : OthersDrive) (s : State) : State :=
  let w := s.win
  if w.awaits 17 17 then
    takeShadow { s with win := { w with sampled := true, shadow := shadowOutcome (w.cca o) (w.cco o) } }
  else s

/-- The STEADY, QUIET or YIELD cell is read (R83 to R85). -/
def flagSample (o : OthersDrive) (s : State) : State :=
  let w := s.win
  if w.awaits 18 20 then
    { s with
      win :=
        { w with
          sampled := true
          steady := if w.cell = 18 then w.cco o && w.cca o else w.steady
          quiet := if w.cell = 19 then w.cco o else w.quiet
          yieldSet := if w.cell = 20 then w.cco o else w.yieldSet } }
  else s

/-- At the sample point of cell 20 a vacancy is formed, and an eligible unit bids (R107, R108). -/
def vacancy (s : State) : State :=
  let w := s.win
  if w.live ∧ w.cell = 20 ∧ w.sampled ∧ !w.vacancyTaken then
    let v := vacancySeen w s.key.beaconAbsent
    { s with win := { w with vacancyTaken := true, vacancy := v, bidder := v && s.eligible } }
  else s

/-- A cell of a dropout field is read: a unit that released CCA for a 1 bit and reads 0 has dropped out (R87). -/
def stillDriving (driving pulled reads : Bool) : Bool := driving && !(!pulled && !reads)

/-- A DIGEST cell is read (R87, R92). -/
def digestSample (o : OthersDrive) (s : State) : State :=
  let w := s.win
  if w.awaits 21 52 then
    { s with
      win :=
        { w with
          sampled := true
          digestRead := (w.digestRead <<< 1) ||| (if w.cca o then 1 else 0)
          digestDriving := stillDriving w.digestDriving w.pullCca (w.cca o) } }
  else s

/-- At the sample point of cell 52 of a pass window the pass result is complete, and it is compared with the NEXT digest
(R92). -/
def passResult (s : State) : State :=
  let w := s.win
  if w.live ∧ w.cell = 52 ∧ w.sampled ∧ w.passResult = none ∧ s.windowPass.isSome then
    { s with
      win :=
        { w with
          passResult := some w.digestRead
          equalsResult := s.next.map Draft.digest == some w.digestRead } }
  else s

/-- A position seen to assent in a pass: the first pass in which it was is kept (R93). -/
def PeerRow.assented (row : PeerRow) (pass : Nat) : PeerRow :=
  { row with assentPass := some (row.assentPass.getD pass) }

/-- The peer table after an ASSENT cell of position `p` read 1 in a pass (R93). -/
def assentedPeers (peers : Vector PeerRow 8) (p pass : Nat) : Vector PeerRow 8 :=
  Vector.ofFn fun q => if q.val = p then (peers[q]).assented pass else peers[q]

/-- An ASSENT cell is read (R93). -/
def assentSample (o : OthersDrive) (s : State) : State :=
  let w := s.win
  if w.awaits 53 60 then
    let p := w.cell - 53
    let one := w.cco o
    { s with
      win := { w with sampled := true, assents := if one then w.assents ||| posBit p else w.assents }
      peers :=
        match one, s.windowPass with
        | true, some pass => assentedPeers s.peers p pass
        | _, _ => s.peers }
  else s

/-- At the sample point of cell 60 of a pass window the pass is decided on (R94). -/
def passDecision (s : State) : State :=
  let w := s.win
  match s.windowPass, w.passResult with
  | some pass, some v =>
    if w.live ∧ w.cell = 60 ∧ w.sampled then decidePass ⟨pass, v, w.assents⟩ s else s
  | _, _ => s

/-- The BIDDING cell is read, and a yield is resolved by it (R109, R112). -/
def biddingSample (o : OthersDrive) (s : State) : State :=
  let w := s.win
  if w.awaits 61 61 then
    resolveYield (w.cco o) { s with win := { w with sampled := true, bidding := w.cco o } }
  else s

/-- A BIDVALUE cell is read; a bidder that reaches cell 66 without dropping out has won (R87, R109, R110). -/
def bidvalueSample (o : OthersDrive) (s : State) : State :=
  let w := s.win
  if w.awaits 62 66 then
    let driving := stillDriving w.bidDriving w.pullCca (w.cca o)
    let s1 : State :=
      { s with
        win :=
          { w with
            sampled := true
            bidRead := (w.bidRead <<< 1) ||| (if w.cca o then 1 else 0)
            bidDriving := driving } }
    if w.cell = 66 ∧ driving then winBid s1 else s1
  else s

/-- The window closes at the end of cell 66 (R73, R88). -/
def windowClose (s : State) : State :=
  let w := s.win
  match w.alignment with
  | some a =>
    if w.phase = .opened ∧ w.cell = 66 ∧ w.sampled then
      closeWith (readRecord s a) (w.shadow == .split && w.droveAccuse) s
    else s
  | none => s

/-! ### The window's rows -/

/-- OWN_WINDOW_START (R71). -/
def execOwnWindowStart (s : State) : Host.Outcome State Fault Refusal := .next (whenRunning openWindow s)

/-- LATE_SYNC (R72). -/
def execLateSync (s : State) : Host.Outcome State Fault Refusal := .next (whenRunning lateSync s)

/-- SYNC_DRIVE_END (R72). -/
def execSyncDriveEnd (s : State) : Host.Outcome State Fault Refusal := .next (whenRunning syncDriveEnd s)

/-- SYNC_EDGE_OBSERVED (R73). -/
def execSyncEdgeObserved (t : Instant) (s : State) : Host.Outcome State Fault Refusal :=
  .next (whenRunning (observeSync t) s)

/-- DEAD_WINDOW (R74). -/
def execDeadWindow (s : State) : Host.Outcome State Fault Refusal := .next (whenRunning deadWindow s)

/-- CELL_DRIVE_START (R73). -/
def execCellDriveStart (s : State) : Host.Outcome State Fault Refusal := .next (whenRunning cellStart s)

/-- HOLD_CELL_SAMPLE (R113). -/
def execHoldCellSample (o : OthersDrive) (s : State) : Host.Outcome State Fault Refusal :=
  .next (whenRunning (holdSample o) s)

/-- SHADOW_SAMPLE (R82). -/
def execShadowSample (o : OthersDrive) (s : State) : Host.Outcome State Fault Refusal :=
  .next (whenRunning (shadowSample o) s)

/-- FLAG_CELL_SAMPLE (R83). -/
def execFlagCellSample (o : OthersDrive) (s : State) : Host.Outcome State Fault Refusal :=
  .next (whenRunning (flagSample o) s)

/-- VACANCY (R107). -/
def execVacancy (s : State) : Host.Outcome State Fault Refusal := .next (whenRunning vacancy s)

/-- DIGEST_CELL_SAMPLE (R87). -/
def execDigestCellSample (o : OthersDrive) (s : State) : Host.Outcome State Fault Refusal :=
  .next (whenRunning (digestSample o) s)

/-- PASS_RESULT (R92). -/
def execPassResult (s : State) : Host.Outcome State Fault Refusal := .next (whenRunning passResult s)

/-- ASSENT_CELL_SAMPLE (R93). -/
def execAssentCellSample (o : OthersDrive) (s : State) : Host.Outcome State Fault Refusal :=
  .next (whenRunning (assentSample o) s)

/-- PASS_DECISION (R94). -/
def execPassDecision (s : State) : Host.Outcome State Fault Refusal := .next (whenRunning passDecision s)

/-- BIDDING_SAMPLE (R112). -/
def execBiddingSample (o : OthersDrive) (s : State) : Host.Outcome State Fault Refusal :=
  .next (whenRunning (biddingSample o) s)

/-- BIDVALUE_CELL_SAMPLE (R109). -/
def execBidvalueCellSample (o : OthersDrive) (s : State) : Host.Outcome State Fault Refusal :=
  .next (whenRunning (bidvalueSample o) s)

/-- WINDOW_CLOSE (R88). -/
def execWindowClose (s : State) : Host.Outcome State Fault Refusal := .next (whenRunning windowClose s)

end Sys2Proof.Machine
end

