-- ==== Sys2Proof/Machine/Keying.lean ====
section
/-! DEFINITION. The keying generator at work (chapter 8): the ticks of a second (R1, R2, R124, R125), the readback
(R113), the end of a CUS pulse (R140), and changes of the keying bus that other units make (R127). -/

namespace Sys2Proof.Machine

/-- The start of a tick of the own second in progress (R1). -/
def State.tickInstant (n : Nat) (s : State) : Instant := s.trk.lastEdge + tickLength * n

/-- The pattern's lines at a tick of the own second in progress (R19, R124). -/
def State.patternAt (n : Nat) (s : State) : KeyingLines := patternLines s.current s.trk.second n

/-- Put lines on the selected output (R125). -/
def State.putLines (t : Instant) (l : KeyingLines) (s : State) : State :=
  match s.keying.out with
  | .bus => s.driveBus t l
  | .loop => s.driveLoop t l
  | .none => s

/-- The next tick of the own second begins (R1, R2, R125). -/
def tickStart (s : State) : State :=
  let n := s.keying.nextTick
  if n < 20 then
    let s1 := s.putLines (s.tickInstant n) (s.patternAt n)
    { s1 with keying := { s1.keying with nextTick := n + 1 } }
  else s

/-- The lines with every strobe released. -/
def strobesReleased (l : KeyingLines) : KeyingLines := { l with kya := false, kyr := false }

/-- 10 ms into the tick in progress a strobe's line is released (R2). -/
def strobeEnd (s : State) : State :=
  if 0 < s.keying.nextTick then
    let t := s.tickInstant (s.keying.nextTick - 1) + ms 10
    (s.driveBus t (strobesReleased s.keying.own)).driveLoop t (strobesReleased s.keying.loop)
  else s

/-- At mid-tick a holder reads KYL back: asserted where the pattern it drives has KYL released is a collision (R113). -/
def kylReadback (s : State) : State :=
  if 0 < s.keying.nextTick ∧ s.key.state.isHolder ∧ (busLines s.keying).kyl ∧ !s.keying.own.kyl then
    s.collide (s.tickInstant (s.keying.nextTick - 1) + ms 25)
  else s

/-- The CUS pulse ends (R140). -/
def cusPulseEnd (s : State) : State := { s with dec := { s.dec with cus := false } }

/-- The other units' drive of the keying bus changes (R127). The decoder records it while the unit runs; in reset and in
the start interval only the level is kept. -/
def busChange (t : Instant) (peer : KeyingLines) (s : State) : State :=
  let s1 : State := { s with keying := { s.keying with peer := peer } }
  if s.running then s1.recordBus t else { s1 with dec := { s1.dec with busBase := busLines s1.keying } }

/-- TICK_START (R125). -/
def execTickStart (s : State) : Host.Outcome State Fault Refusal := .next (whenRunning tickStart s)

/-- STROBE_END (R2). -/
def execStrobeEnd (s : State) : Host.Outcome State Fault Refusal := .next (whenRunning strobeEnd s)

/-- KYL_READBACK (R113). -/
def execKylReadback (s : State) : Host.Outcome State Fault Refusal := .next (whenRunning kylReadback s)

/-- CUS_PULSE_END (R140). -/
def execCusPulseEnd (s : State) : Host.Outcome State Fault Refusal := .next (whenRunning cusPulseEnd s)

/-- KEYING_BUS_CHANGE (R127): the level of the bus is the other units', whether or not this unit runs. -/
def execKeyingBusChange (t : Instant) (peer : KeyingLines) (s : State) : Host.Outcome State Fault Refusal :=
  .next (busChange t peer s)

end Sys2Proof.Machine
end

