-- ==== Sys2Proof/Machine/Edge.lean ====
section
/-! DEFINITION. The own edge (R24) and what every block does at it, in the order of log 11, and the realign (R30, R66,
R106, R131). -/

namespace Sys2Proof.Machine

/-! ### The second that ends -/

/-- The entry of the second that ends, as the open minute takes it: a second already entered as unobserved stays so
(R131). -/
def endedEntry (m : OpenMinute) (e : Instant) (base : KeyingLines) (trace : List LineSample) (s : State) :
    SecondEntry :=
  if m.entries.length = s.trk.second then secondEntry s.current s.trk.second s.trk.lastEdge e base trace
  else unobservedEntry

/-- The open minute with the entry of the second that ends, and the loop entry in a proof minute (R131). The loop entries are
appended as they come: the seconds that a realign enters as unobserved have none, the model's choice (log 33). -/
def withEntries (entry loopEntry : SecondEntry) (s : State) (m : OpenMinute) : OpenMinute :=
  { m with
    entries := if m.entries.length = s.trk.second then m.entries ++ [entry] else m.entries
    loopEntries := if s.key.proof.running then m.loopEntries ++ [loopEntry] else m.loopEntries }

/-- What the SHADOW report of the coming window rests on (R132). `read` says that this second's window was opened. A realign
after the edge leaves it as this edge settled it, the model's choice (log 32). -/
def evidenceOf (read : Bool) (entry : SecondEntry) (s : State) : Evidence where
  assent := assents s.curRec
  coded := (s.current.bind Draft.coded).isSome
  mismatch := entry.observed && entry.matched == some false
  beacon :=
    read && (match s.winRec with
      | some r => r.hold != 0
      | none => false)

/-- The cue of a second that matched (R140). -/
def cueStep (entry : SecondEntry) (s : State) : State :=
  match cueValueAt s.current s.trk.second with
  | some v => if assents s.curRec ∧ entry.observed ∧ entry.matched = some true then s.signalCue v else s
  | none => s

/-- The decoder at the own edge `e` that ends a second: its entry, the proof report, the evidence for the coming window
and the cue (R128 to R133, R140). -/
def secondEnds (read : Bool) (e : Instant) (s : State) : State :=
  match s.dec.openMinute with
  | none => { s with dec := { s.dec with evidence := none } }
  | some m =>
    let entry := endedEntry m e s.dec.busBase s.dec.busTrace s
    let loopEntry := endedEntry m e s.dec.loopBase s.dec.loopTrace s
    let s1 : State :=
      { s with
        dec :=
          { s.dec with
            openMinute := some (withEntries entry loopEntry s m)
            evidence := some (evidenceOf read entry s) } }
    if s.key.proof.running then
      cueStep loopEntry (proofReport (loopEntry.observed && loopEntry.matched == some true) s1)
    else cueStep entry s1

/-! ### The own minute boundary -/

/-- At an own minute boundary the air record is closed and entered (R134, R138), the countdowns run (R157), the lanes
take credit (R153), the proof is judged (R120), a zone entry falls due (R45), the listening count is advanced (R121),
NEXT becomes CURRENT (R65, R101) and a proof minute may begin (R119). -/
def minuteBoundary (minute : Nat) (s : State) : State :=
  let closed := closeAirMinute minute s
  let credited := takeCredit closed.2 s.current (countdowns closed.1)
  proofBegin (handOver (listenBoundary (zoneDue minute (proofJudge credited))))

/-! ### The freeze -/

/-- The key state that a freeze reads where the own edge of the freeze changes it: which of the two is left open
(R61, log 10). -/
def freezeKey (before after : KeyState) (n : Nat) : KeyState :=
  if before = after then after else if Config.freezeBeforeKeyChange n then before else after

/-- At the own edge of second 48: the assent passes are cleared (R79) and NEXT is frozen (R53). -/
def freezeEdge (before : KeyState) (read : Bool) (s : State) : State :=
  let s1 := freeze (freezeKey before s.key.state s.freeIdx) read (clearAssentPasses s)
  { s1 with freeIdx := if before = s.key.state then s.freeIdx else s.freeIdx + 1 }

/-! ### The second that begins -/

/-- The output that the generator selects at an own edge (R125). -/
def State.selectedOutput (s : State) : KeyingOutput :=
  if s.key.proof.running && s.key.state == .proving then .loop
  else if s.key.drivers && s.keyingConditions then .bus
  else .none

/-- An own second begins: its ticks, its window and the decoder's record of the lines, from 20 ms before its edge on
(R1, R71, R127). -/
def beginSecond (s : State) : State :=
  let from_ := s.trk.lastEdge - ms 20
  let bus := forgetBefore from_ s.dec.busBase s.dec.busTrace
  let loop := forgetBefore from_ s.dec.loopBase s.dec.loopTrace
  { s with
    keying := { s.keying with out := s.selectedOutput, nextTick := 0 }
    win := Window.neutral .waiting
    dec :=
      { s.dec with busBase := bus.1, busTrace := bus.2, loopBase := loop.1, loopTrace := loop.2 } }

/-- An own edge (R24): the window and the second that end, the lines of a cut tick (R1), the tracker, the boundary, the
key state, the freeze, and the second that begins. -/
def ownEdge (s : State) : State :=
  let t := s.trk
  let read := s.win.phase != .waiting
  let ended := (secondEnds read t.nextEdge (endWindow s)).releaseKeying t.nextEdge
  let counted := trackerEdge ended
  let turned := if t.boundaryNext then minuteBoundary counted.trk.minute counted else counted
  let keyed := keyEdge t.boundaryNext turned
  let frozen := if t.freezeNext then freezeEdge turned.key.state read keyed else keyed
  proofReferenceCheck (beginSecond frozen)

/-! ### The realign -/

/-- The REFP edge that a realign takes and its reference time: the latest edge that arrived no later than 5 ms after the
boundary (R30). -/
def Tracker.realignTarget (t : Tracker) : Option (Instant × UtcTime) :=
  match t.openMsg with
  | some o =>
    if o.edge ≤ t.lastEdge + ms 5 then t.carriedTime.map fun u => (o.edge, u)
    else t.prevRef.bind fun p => p.time.map fun u => (p.instant, u)
  | none => t.prevRef.bind fun p => p.time.map fun u => (p.instant, u)

/-- The tracker after a realign onto edge `e` and count `c` (R30). That the good run, which R30 does not name, is 0 too follows
Table 2.4 (log 22). The own second in progress ends 1000 ms after `e` (log 34). -/
def Tracker.realigned (t : Tracker) (e : Instant) (c : CountTime) : Tracker :=
  { t with
    minute := c.minute
    second := c.second
    anchor := e
    refState := .locked
    badRun := 0
    goodRun := 0
    holdover := 0
    stepConf := 0
    armed := false
    realignDue := false
    marks := relabelLast c t.marks }

/-- CURRENT after the count has jumped to a minute: kept, or discarded with its record and keyed no more (R66, R102,
R106). A kept draft goes on from the second number the new count gives (R124). -/
def realignDraft (minute : Nat) (s : State) : State :=
  let t := s.trk.lastEdge + ms 5
  match s.current with
  | none => s
  | some d =>
    if d.minute = minute then
      if 0 < s.keying.nextTick then s.putLines t (s.patternAt (s.keying.nextTick - 1)) else s
    else
      { s with
        current := none
        curRec := none
        keying := { s.keying with out := if s.keying.out = KeyingOutput.bus then KeyingOutput.none else s.keying.out } }.releaseKeying t

/-- The realign, 5 ms after an own minute boundary that found it armed (R30): the count and the anchor, the zone table
(R46), the open minute (R131) and the draft (R66). The evidence for the SHADOW report of the window that follows (R132) stays
as the boundary edge settled it, even when CURRENT is discarded: the model's choice (log 32). -/
def realign (s : State) : State :=
  if s.trk.realignDue ∧ s.trk.armed ∧ s.trk.refState = .stepping then
    match s.trk.realignTarget with
    | none => s
    | some (e, u) =>
      let c := u.toCount
      let past := s.pastEntry
      let moved : State := { s with trk := s.trk.realigned e c }.raise .realigned
      realignDraft c.minute (openUnobserved c (settleZone c.minute past moved))
  else s

/-- OWN_EDGE (R24). -/
def execOwnEdge (s : State) : Host.Outcome State Fault Refusal := .next (whenRunning ownEdge s)

/-- REALIGN (R30). -/
def execRealign (s : State) : Host.Outcome State Fault Refusal := .next (whenRunning realign s)

end Sys2Proof.Machine
end

