-- ==== Sys2Proof/Machine/Operands.lean ====
section
/-! DEFINITION. Values as frames carry them (R176, R177) and the bodies of the reads (R179 to R181, R184): every operand
form of the controller link. -/

namespace Sys2Proof.Machine

/-! ### Codings (R176) -/

/-- A number of one byte. -/
def byteOf (n : Nat) : Byte := BitVec.ofNat 8 n

/-- A number of two bytes, most significant first. -/
def bytes2 (n : Nat) : List Byte := [byteOf (n / 256), byteOf n]

/-- A number of four bytes, most significant first. -/
def bytes4 (n : Nat) : List Byte := [byteOf (n / 16777216), byteOf (n / 65536), byteOf (n / 256), byteOf n]

/-- A signed value of one byte, in two's complement. -/
def signedByte (z : Int) : Byte := BitVec.ofInt 8 z

/-- A yes or no, on or off, set or clear value. -/
def flagByte (b : Bool) : Byte := if b then 1#8 else 0#8

/-- FFh in `n` bytes: a value that is absent. -/
def absentBytes (n : Nat) : List Byte := List.replicate n 0xFF#8

/-- A value of one byte, or FFh when it is absent. -/
def optByte (o : Option Nat) : Byte :=
  match o with
  | some n => byteOf n
  | none => 0xFF#8

/-- A flag, or FFh when it is absent. -/
def optFlag (o : Option Bool) : Byte :=
  match o with
  | some b => flagByte b
  | none => 0xFF#8

/-- Reference state codes. -/
def RefState.code : RefState → Byte
  | .acquiring => 0
  | .locked => 1
  | .holdover => 2
  | .stepping => 3
  | .expired => 4

/-- Leap plan codes. -/
def LeapPlan.code : LeapPlan → Byte
  | .none => 0
  | .insert => 1
  | .delete => 2

/-- Key state codes. -/
def KeyState.code : KeyState → Byte
  | .dormant => 0
  | .standby => 1
  | .holding => 2
  | .yielding => 3
  | .fenced => 4
  | .proving => 5

/-- Outcome codes. -/
def RecordOutcome.code : RecordOutcome → Byte
  | .pending => 0
  | .concord => 1
  | .none => 2

/-- Role codes. -/
def Role.code : Role → Nat
  | .assent => 0
  | .dissent => 1
  | .abstain => 2

/-- Standing codes. -/
def Standing.code : Standing → Nat
  | .contender => 0
  | .left => 1
  | .observer => 2
  | .blind => 3
  | .decided => 4

/-- Lane state codes. -/
def LaneState.code : LaneState → Byte
  | .stopped => 0
  | .running => 1
  | .waiting => 2
  | .starved => 3
  | .faulted => 4

/-- Report point codes. -/
def ReportPoint.code : ReportPoint → Byte
  | .frozen => 0
  | .aired => 1

/-- Lane order codes (R179). -/
def LaneOrder.code : LaneOrder → Byte
  | .fixed => 0
  | .rotate => 1

/-- Zone state codes. -/
def ZoneState.code : ZoneState → Byte
  | .standard => 0
  | .summer => 1

/-- Owner codes (R177). -/
def Owner.code : Owner → Byte
  | .controller => 0
  | .generator => 1

/-- Alignment codes (R180). -/
def Alignment.code : Alignment → Byte
  | .aligned => 0
  | .askew => 1
  | .dead => 2

/-- SYNC drive codes (R180). -/
def SyncDrive.code : SyncDrive → Byte
  | .notDriven => 0
  | .atStart => 1
  | .late => 2

/-- SHADOW outcome codes (R180). -/
def ShadowOutcome.code : ShadowOutcome → Byte
  | .none => 0
  | .unanimous => 1
  | .split => 2

/-- Observed symbol codes (R181). -/
def ObsSymbol.code : ObsSymbol → Nat
  | .zero => 0
  | .one => 1
  | .mark => 2
  | .split => 3
  | .blank => 4
  | .unclear => 5

/-- Statuses (Table 11.3). -/
def Status.code : Status → Byte
  | .done => 0
  | .state => 1
  | .owner => 2
  | .range => 3
  | .full => 4
  | .format => 5

/-! ### STATUS READ (R179) -/

/-- Group 1, the reference tracker; while the count is invalid its number reads FFh (log 19). -/
def trackerBytes (t : Tracker) : List Byte :=
  [t.refState.code, flagByte t.countValid]
    ++ (if t.countValid then bytes4 t.minute ++ [byteOf t.second] else absentBytes 5)
    ++ bytes2 t.holdover
    ++ [byteOf t.stepConf, flagByte t.armed, t.plan.code, flagByte t.planFrozen]

/-- Group 2, the straps. -/
def strapBytes (x : Straps) : List Byte :=
  [byteOf x.position.val, byteOf x.precedence.val, byteOf x.roll, signedByte x.offset, x.order.code]

/-- Group 4, the key controller. -/
def keyBytes (k : KeyCtl) : List Byte :=
  [k.state.code, flagByte k.bidBar, optByte k.pendingTake, flagByte k.pendingRelease, flagByte k.pendingFence,
    byteOf k.unsupported, byteOf k.askewRun, flagByte k.beaconAbsent, byteOf k.listening,
    flagByte k.proof.minute.isSome]
    ++ (match k.proof.minute with
      | some m => bytes4 m
      | none => absentBytes 4)
    ++ [byteOf k.proof.matched, flagByte k.proof.refHeld]

/-- The fields of a draft that only a CODED one has: quality, announcement id, segment number, last segment number,
segment lane and descriptor index. -/
def codedBytes (c : Option CodedPart) : List Byte :=
  match c with
  | none => absentBytes 6
  | some c =>
    [flagByte c.quality, byteOf c.annId, byteOf c.segNo, byteOf c.lastSeg,
      optByte (c.segment.map fun g => g.lane.val), optByte (c.segment.map fun g => g.index.val)]

/-- The kind of a draft: CODED 00h, STEADY 01h. -/
def Draft.kindByte (d : Draft) : Byte := if d.coded.isSome then 0#8 else 1#8

/-- Group 5, one draft. -/
def draftBytes (d : Option Draft) : List Byte :=
  match d with
  | none => 0#8 :: absentBytes 19
  | some d =>
    1#8 :: bytes4 d.minute
      ++ [d.kindByte, byteOf ((d.coded.map CodedPart.symbolCount).getD 0), flagByte d.participant, d.refState.code,
        d.keyState.code]
      ++ codedBytes d.coded
      ++ bytes4 d.digest.toNat

/-- Group 7, one lane. -/
def laneBytes (x : Lane) : List Byte :=
  [x.state.code, optByte (x.cursor.map Fin.val), optByte (x.start.map Fin.val), byteOf x.airings, optByte x.repeats,
    byteOf x.spacing, byteOf x.countdown, x.report.code, optByte x.lastSeg]

/-- Group 8, the lane order state. -/
def laneOrderBytes (x : Lanes) : List Byte :=
  x.rotation.map (fun l => byteOf l.val) ++ [optByte (x.lastEvent.map Fin.val)]

/-- The body of STATUS READ (R179). -/
def statusBody (s : State) : List Byte :=
  trackerBytes s.trk ++ strapBytes s.straps ++ [flagByte s.req.steady, flagByte s.req.quiet] ++ keyBytes s.key
    ++ draftBytes s.next ++ draftBytes s.current ++ [byteOf s.dec.lastCue.toNat]
    ++ s.lanes.lane.toList.flatMap laneBytes ++ laneOrderBytes s.lanes

/-! ### EVENTS READ (R184) -/

/-- A 24-bit value as three bytes. -/
def bytes24 (w : Word24) : List Byte := [byteOf (w.toNat / 65536), byteOf (w.toNat / 256), byteOf w.toNat]

/-- The body of EVENTS READ (R184). -/
def eventsBody (s : State) : List Byte := bytes24 s.ev.latches ++ bytes24 s.ev.mask

/-! ### PEERS READ and CONCORD READ (R180) -/

/-- One row of the peer table. -/
def peerBytes (r : PeerRow) : List Byte :=
  [flagByte r.present, flagByte r.holding, byteOf r.absentRun, optByte r.assentPass, flagByte r.self]

/-- An offset in signed tenths of a millisecond, 8000h when no edge was observed. -/
def offsetBytes (o : Option Int) : List Byte :=
  match o with
  | none => [0x80#8, 0x00#8]
  | some z => bytes2 (BitVec.ofInt 16 z).toNat

/-- The window record. -/
def windowBytes (r : Option WindowRecord) : List Byte :=
  match r with
  | none => 0#8 :: absentBytes 12
  | some r =>
    [1#8, optByte r.second, r.alignment.code, r.syncDrive.code] ++ offsetBytes r.offset
      ++ [r.present, r.hold, r.shadow.code, flagByte r.steady, flagByte r.quiet, flagByte r.yieldSet,
        flagByte r.bidding]

/-- The body of PEERS READ (R180). -/
def peersBody (s : State) : List Byte := s.peers.toList.flatMap peerBytes ++ windowBytes s.winRec

/-- One concord record. -/
def recordBytes (r : Option ConcordRecord) : List Byte :=
  match r with
  | none => 0#8 :: absentBytes 15
  | some r =>
    1#8 :: bytes4 r.minute ++ [r.outcome.code]
      ++ (match r.digest with
        | some d => bytes4 d.toNat
        | none => absentBytes 4)
      ++ [byteOf r.tally, byteOf r.passesUsed, optByte (r.role.map Role.code), r.assenting,
        optByte (r.standing.map Standing.code), optByte r.nextPass]

/-- The body of CONCORD READ (R180). -/
def concordBody (s : State) : List Byte := recordBytes s.nextRec ++ recordBytes s.curRec

/-! ### AIRLOG READ and ZONE READ (R181) -/

/-- Half-bytes packed two to a byte, the earlier one high, over `n` bytes; the unused ones are Fh. -/
def packHalves : Nat → List Nat → List Byte
  | 0, _ => []
  | n + 1, xs => byteOf (16 * xs.getD 0 15 + xs.getD 1 15) :: packHalves n (xs.drop 2)

/-- The header of an air record, or FFh bytes. -/
def headerBytes (h : Option AirHeader) : List Byte :=
  match h with
  | none => absentBytes 9
  | some h =>
    [byteOf h.minute, byteOf h.hour] ++ bytes2 h.dayOfYear
      ++ [byteOf h.yearOfCentury, byteOf h.weekday, byteOf h.annId, byteOf h.segNo, byteOf h.lastSeg]

/-- One air record. -/
def airBytes (r : AirRecord) : List Byte :=
  bytes4 r.minute ++ [byteOf r.symbols.length] ++ packHalves 31 (r.symbols.map ObsSymbol.code)
    ++ [flagByte r.header.isSome] ++ headerBytes r.header
    ++ [flagByte r.complete, optFlag r.segmentCheck, optFlag r.matchesCurrent, r.keyers, flagByte r.steady]

/-- The body of AIRLOG READ (R181). -/
def airlogBody (s : State) : List Byte := byteOf s.dec.log.length :: s.dec.log.flatMap airBytes

/-- One zone entry. -/
def zoneBytes (past : Option ZoneEntry) (e : ZoneEntry) : List Byte :=
  bytes4 e.start ++ [e.state.code, flagByte (past == some e)]

/-- The body of ZONE READ (R49, R181). -/
def zoneBody (s : State) : List Byte :=
  [signedByte s.straps.offset, byteOf s.zone.length] ++ s.zone.flatMap (zoneBytes s.pastEntry)

/-! ### DESC READ (R177) -/

/-- The two cue entries, unused ones 00h. -/
def cueBytes (cues : List Cue) : List Byte :=
  (cues.flatMap fun c => [byteOf c.second, byteOf c.value]) ++ List.replicate (2 * (2 - cues.length)) 0#8

/-- The body of DESC READ: the 60 bytes of Table 11.5, the owner, the claim and the aired count (R177). -/
def descBody (i : DescIndex) (d : Descriptor) : List Byte :=
  [byteOf i.val, byteOf d.annId, byteOf d.segNo, byteOf d.lastSeg, byteOf d.repeats, flagByte d.endFlag,
    optByte (d.link.map Fin.val), byteOf d.cues.length]
    ++ cueBytes d.cues ++ d.payload
    ++ [d.owner.code, optByte (d.claim.map Fin.val)] ++ bytes2 d.aired

/-! ### Request bodies (Table 11.4) -/

/-- Four bytes as a 32-bit value, most significant first. -/
def word32Of (a b c d : Byte) : Word32 := a ++ b ++ c ++ d

/-- Three bytes as a 24-bit value, most significant first. -/
def word24Of (a b c : Byte) : Word24 := a ++ b ++ c

/-- The 60-byte body of DESC WRITE (Table 11.5). -/
def descBodyOf (body : List Byte) : DescBody :=
  let at_ (i : Nat) : Byte := body.getD i 0
  { index := at_ 0
    annId := at_ 1
    segNo := at_ 2
    lastSeg := at_ 3
    repeats := at_ 4
    endFlag := at_ 5
    next := at_ 6
    cueCount := at_ 7
    cue1Second := at_ 8
    cue1Value := at_ 9
    cue2Second := at_ 10
    cue2Value := at_ 11
    payload := Vector.ofFn fun i : Fin 48 => at_ (12 + i.val) }

/-- The requests without a body (Table 11.4). -/
def requestOf0 (code : Byte) : Option Request :=
  if code = 0x01 then some .statusRead
  else if code = 0x02 then some .eventsRead
  else if code = 0x05 then some .peersRead
  else if code = 0x06 then some .concordRead
  else if code = 0x07 then some .airlogRead
  else if code = 0x22 then some .zoneRead
  else if code = 0x30 then some .keyYield
  else if code = 0x31 then some .readmit
  else if code = 0x3F then some .restart
  else none

/-- The requests with a body of one byte: a descriptor index or a lane number (Table 11.4). -/
def requestOf1 (code a : Byte) : Option Request :=
  if code = 0x11 then some (.descHand a)
  else if code = 0x12 then some (.descRecall a)
  else if code = 0x13 then some (.descRead a)
  else if code = 0x19 then some (.laneStop a)
  else if code = 0x1A then some (.laneResume a)
  else if code = 0x1B then some (.laneClear a)
  else none

/-- The requests with a body of three bytes: an event mask (Table 11.4). -/
def requestOf3 (code a b c : Byte) : Option Request :=
  if code = 0x03 then some (.eventsClear (word24Of a b c))
  else if code = 0x04 then some (.eventsEnable (word24Of a b c))
  else none

/-- The requests with a body of four bytes (Table 11.4). -/
def requestOf4 (code a b c d : Byte) : Option Request :=
  if code = 0x18 then some (.laneStart a b c d)
  else if code = 0x21 then some (.zoneRemove (word32Of a b c d))
  else none

/-- The request that a command code and a body of the right length make (Table 11.4). -/
def requestOf (code : Byte) (body : List Byte) : Option Request :=
  match body with
  | [] => requestOf0 code
  | [a] => requestOf1 code a
  | [a, b] => if code = 0x28 then some (.requestSet a b) else none
  | [a, b, c] => requestOf3 code a b c
  | [a, b, c, d] => requestOf4 code a b c d
  | [a, b, c, d, z] => if code = 0x20 then some (.zoneAdd (word32Of a b c d) z) else none
  | body => if code = 0x10 ∧ body.length = 60 then some (.descWrite (descBodyOf body)) else none

/-- The command code of a request (Table 11.4). -/
def requestCode : Request → Byte
  | .statusRead => 0x01
  | .eventsRead => 0x02
  | .eventsClear _ => 0x03
  | .eventsEnable _ => 0x04
  | .peersRead => 0x05
  | .concordRead => 0x06
  | .airlogRead => 0x07
  | .descWrite _ => 0x10
  | .descHand _ => 0x11
  | .descRecall _ => 0x12
  | .descRead _ => 0x13
  | .laneStart _ _ _ _ => 0x18
  | .laneStop _ => 0x19
  | .laneResume _ => 0x1A
  | .laneClear _ => 0x1B
  | .zoneAdd _ _ => 0x20
  | .zoneRemove _ => 0x21
  | .zoneRead => 0x22
  | .requestSet _ _ => 0x28
  | .keyYield => 0x30
  | .readmit => 0x31
  | .restart => 0x3F

/-- The 60 bytes of DESC WRITE (Table 11.5). -/
def descWriteBytes (b : DescBody) : List Byte :=
  [b.index, b.annId, b.segNo, b.lastSeg, b.repeats, b.endFlag, b.next, b.cueCount, b.cue1Second, b.cue1Value, b.cue2Second,
    b.cue2Value] ++ b.payload.toList

/-- The body of a request (Table 11.4). -/
def requestBody : Request → List Byte
  | .statusRead => []
  | .eventsRead => []
  | .eventsClear m => bytes24 m
  | .eventsEnable m => bytes24 m
  | .peersRead => []
  | .concordRead => []
  | .airlogRead => []
  | .descWrite b => descWriteBytes b
  | .descHand i => [i]
  | .descRecall i => [i]
  | .descRead i => [i]
  | .laneStart l h g p => [l, h, g, p]
  | .laneStop l => [l]
  | .laneResume l => [l]
  | .laneClear l => [l]
  | .zoneAdd t z => bytes4 t.toNat ++ [z]
  | .zoneRemove t => bytes4 t.toNat
  | .zoneRead => []
  | .requestSet x y => [x, y]
  | .keyYield => []
  | .readmit => []
  | .restart => []

/-- A request frame (Table 11.1): code, body length, body and check byte. -/
def requestFrame (r : Request) : List Byte :=
  let head := requestCode r :: byteOf (requestBody r).length :: requestBody r
  head ++ [crc8 head]

end Sys2Proof.Machine
end

