-- ==== Sys2Proof/Machine/Start.lean ====
section
/-! DEFINITION. Supply, RSTN, the start interval, the straps (R165 to R167), and the performance of RESTART (R170). -/

namespace Sys2Proof.Machine

/-! ### Reset (R165) -/

/-- Every block at its power-on values. What is outside the unit stays: the queue, the RSTN pin and the other units'
drive of the keying bus; so does the counter of free choices. -/
def State.powerOnValues (pwr : Power) (s : State) : State :=
  { State.reset with
    pending := s.pending
    freeIdx := s.freeIdx
    pwr := pwr
    keying := { Keying.reset with peer := s.keying.peer }
    dec := { Decoder.reset with busBase := s.keying.peer, loopBase := linesReleased } }

/-- POWER_ON (R165): with RSTN low the unit is held in reset. -/
def powerOn (s : State) : State := s.powerOnValues ⟨true, s.pwr.rstnLow, !s.pwr.rstnLow⟩

/-- RSTN_ASSERT (R165). -/
def rstnAssert (s : State) : State := s.powerOnValues ⟨s.pwr.supply, true, false⟩

/-- RSTN_RELEASE (R165): the start interval begins when the supply is up. -/
def rstnRelease (s : State) : State :=
  if s.pwr.rstnLow then s.powerOnValues ⟨s.pwr.supply, false, s.pwr.supply⟩ else s

/-- SUPPLY_LOSS (R165): the lines are released and the state is lost (log 6). -/
def supplyLoss (s : State) : State := s.powerOnValues ⟨false, s.pwr.rstnLow, false⟩

/-! ### The end of the start interval (R166, R167) -/

/-- The values held from the strap pins (Table 10.1). -/
def Straps.ofPins (p : StrapPins) : Straps where
  position := p.pos.toFin
  precedence := p.prec.toFin
  roll := p.roll.toNat + 1
  offset := clampOffset p.zofs.toInt
  order := if p.lord then .rotate else .fixed

/-- The row of the strapped position becomes the self row (R80, R166). -/
def selfRow (position : Fin 8) (peers : Vector PeerRow 8) : Vector PeerRow 8 :=
  Vector.ofFn fun p => { peers[p] with self := decide (p = position) }

/-- The tracker with the first own edge given (R24, R167). -/
def Tracker.firstEdge (t : Instant) (k : Tracker) : Tracker :=
  { k with anchor := t, lastEdge := t, byOscillator := true, validAtEdge := false, marks := [⟨t, none⟩] }

/-- The start interval is over: the straps are sampled, the first own edge is given, the reference port and the link
open (R166, R167). -/
def startIntervalEnd (t : Instant) (pins : StrapPins) (s : State) : State :=
  if s.pwr.supply ∧ !s.pwr.rstnLow ∧ s.pwr.starting then
    { s with
      pwr := { s.pwr with starting := false }
      straps := .ofPins pins
      trk := s.trk.firstEdge t
      peers := selfRow (Straps.ofPins pins).position s.peers
      keying := { s.keying with nextTick := 0 }
      win := Window.neutral .waiting }
  else s

/-! ### RESTART (R170) -/

/-- The tracker at a RESTART (R36): its own edges run on from the kept anchor (R24). That a REFP edge already accepted as
the next own edge, and not yet taken, is dropped, so that the next own edge falls 1000 ms after the anchor, is the model's
choice (log 38). -/
def Tracker.restarted (t : Tracker) : Tracker :=
  { Tracker.reset with anchor := t.anchor, lastEdge := t.lastEdge, byOscillator := t.byOscillator }

/-- The window at a RESTART: an open one is abandoned, one that has not opened stays to open, and both lines are
released (R71). -/
def Window.restarted (w : Window) : Window :=
  match w.phase with
  | .waiting => { w with pullCca := false, driveCco := false, syncDriving := false }
  | .opened => Window.neutral .over
  | .over => Window.neutral .over

/-- The peer table at a RESTART: cleared, the self row kept (R80). -/
def restartedPeers (peers : Vector PeerRow 8) : Vector PeerRow 8 :=
  peers.map fun row => { PeerRow.reset with self := row.self }

/-- A RESTART is performed: every block acts at once (R170). The straps, the zone table, the store, the lanes but for
their states, the local requests and the enable mask are kept. -/
def restart (t : Instant) (s : State) : State :=
  let s1 := s.releaseKeying t
  { s1 with
    trk := s.trk.restarted
    lanes := { s.lanes with lane := s.lanes.lane.map fun x => { x with state := .stopped }, lastEvent := none }
    next := none
    current := none
    nextRec := none
    curRec := none
    handedOver := false
    win := s.win.restarted
    winRec := none
    peers := restartedPeers s.peers
    key := KeyCtl.reset
    keying := { s1.keying with out := .none }
    dec := { s1.dec with openMinute := none, log := [], evidence := none, lastCue := 0, cus := false }
    link := ⟨.empty, false⟩
    ev := { s.ev with latches := 0 } }

/-! ### The rows -/

/-- POWER_ON (R165). -/
def execPowerOn (s : State) : Host.Outcome State Fault Refusal := .next (powerOn s)

/-- RSTN_ASSERT (R165). -/
def execRstnAssert (s : State) : Host.Outcome State Fault Refusal := .next (rstnAssert s)

/-- RSTN_RELEASE (R165). -/
def execRstnRelease (s : State) : Host.Outcome State Fault Refusal := .next (rstnRelease s)

/-- SUPPLY_LOSS (R165). -/
def execSupplyLoss (s : State) : Host.Outcome State Fault Refusal := .next (supplyLoss s)

/-- START_INTERVAL_END (R167). -/
def execStartIntervalEnd (t : Instant) (pins : StrapPins) (s : State) : Host.Outcome State Fault Refusal :=
  .next (startIntervalEnd t pins s)

end Sys2Proof.Machine
end

