-- ==== Sys2Proof/Machine/Link.lean ====
section
/-! DEFINITION. The controller link (chapter 11): the receiver (R173), the checks of a frame (R174), the taking of a
command and its response (R172, R175), and what each command does to the state. Here stand the meanings of the link's
rows and of the 22 commands. -/

namespace Sys2Proof.Machine

/-! ### Event commands (R184) -/

/-- The mask names only latches (R183). -/
def maskOk (m : Word24) : Bool := (m &&& noEventBit) == 0

/-- EVENTS CLEAR (R184). -/
def eventsClear (m : Word24) (s : State) : Status × State :=
  if maskOk m then (.done, { s with ev := { s.ev with latches := s.ev.latches &&& ~~~m } }) else (.range, s)

/-- EVENTS ENABLE (R184). -/
def eventsEnable (m : Word24) (s : State) : Status × State :=
  if maskOk m then (.done, { s with ev := { s.ev with mask := m } }) else (.range, s)

/-! ### Request, zone and restart commands -/

/-- REQUEST SET (R86). -/
def requestSet (steady quiet : Byte) (s : State) : Status × State :=
  match flagOf steady, flagOf quiet with
  | some x, some y => (.done, redriveFlags { s with req := ⟨x, y⟩ })
  | _, _ => (.range, s)

/-- ZONE ADD (R47). -/
def zoneAdd (start : Word32) (state : Byte) (s : State) : Status × State :=
  let r := zoneAddTable s start.toNat state
  (r.1, { s with zone := r.2 })

/-- ZONE REMOVE (R48). -/
def zoneRemove (start : Word32) (s : State) : Status × State :=
  let r := zoneRemoveTable s start.toNat
  (r.1, { s with zone := r.2 })

/-- RESTART is taken: it waits for the end of its response (R170). -/
def restartTake (s : State) : Status × State := (.done, { s with link := { s.link with restartPending := true } })

/-! ### Performing a request -/

/-- What a command answers: its status, the body of a DONE response, and the state (R175). -/
structure Answer where
  status : Status
  body : List Byte
  state : State
  deriving DecidableEq, Repr

/-- The answer of a command that returns nothing. -/
def answer (r : Status × State) : Answer := ⟨r.1, [], r.2⟩

/-- The answer of a read: the body is formed from the state as it stands, and nothing changes (R175, R178). -/
def readAnswer (body : List Byte) (s : State) : Answer := ⟨.done, body, s⟩

/-- DESC READ (R147). -/
def descRead (index : Byte) (s : State) : Answer :=
  match descIndexOf index with
  | some i => readAnswer (descBody i (s.desc i)) s
  | none => answer (.range, s)

/-- A command is performed or refused by the block that owns it (R175, Table 11.4). -/
def perform (r : Request) (s : State) : Answer :=
  match r with
  | .statusRead => readAnswer (statusBody s) s
  | .eventsRead => readAnswer (eventsBody s) s
  | .eventsClear m => answer (eventsClear m s)
  | .eventsEnable m => answer (eventsEnable m s)
  | .peersRead => readAnswer (peersBody s) s
  | .concordRead => readAnswer (concordBody s) s
  | .airlogRead => readAnswer (airlogBody s) s
  | .descWrite b => answer (descWrite b s)
  | .descHand i => answer (descHand i s)
  | .descRecall i => answer (descRecall i s)
  | .descRead i => descRead i s
  | .laneStart l h g r => answer (laneStart l h g r s)
  | .laneStop l => answer (laneStop l s)
  | .laneResume l => answer (laneResume l s)
  | .laneClear l => answer (laneClear l s)
  | .zoneAdd t z => answer (zoneAdd t z s)
  | .zoneRemove t => answer (zoneRemove t s)
  | .zoneRead => readAnswer (zoneBody s) s
  | .requestSet x y => answer (requestSet x y s)
  | .keyYield => answer (keyYield s)
  | .readmit => answer (readmit s)
  | .restart => answer (restartTake s)

/-! ### Frames (R172 to R175) -/

/-- A response frame (Table 11.2). -/
def responseFrame (code : Byte) (status : Status) (body : List Byte) : List Byte :=
  let head := [code, status.code] ++ bytes2 body.length ++ body
  head ++ [crc8 head]

/-- The receiver takes a state. -/
def State.setRx (rx : Receiver) (s : State) : State := { s with link := { s.link with rx := rx } }

/-- A response is sent: the receiver is RESPONDING until it ends (R173, R175). -/
def respond (code : Byte) (status : Status) (body : List Byte) (s : State) : State :=
  s.setRx (.responding (responseFrame code status body))

/-- A command is taken and its response formed (R175). -/
def take (r : Request) (s : State) : State :=
  let a := perform r s
  respond (requestCode r) a.status a.body a.state

/-- A whole frame is checked, in the order of R174, and answered FORMAT or taken. -/
def checkFrame (bytes : List Byte) (s : State) : State :=
  match bytes with
  | code :: len :: rest =>
    let body := rest.dropLast
    if rest.getLast? = some (crc8 (code :: len :: body)) then
      match requestOf code body with
      | some r => take r s
      | none => respond code .format [] s
    else respond code .format [] s
  | _ => s

/-- A character is appended to the frame being collected (R173). -/
def collect (bytes : List Byte) (s : State) : State :=
  match bytes with
  | code :: len :: rest =>
    if 64 < len.toNat then s.setRx (.draining (some code))
    else if rest.length = len.toNat + 1 then checkFrame bytes s
    else s.setRx (.collecting bytes)
  | _ => s.setRx (.collecting bytes)

/-- A character completes on CLI (R173). -/
def cliCharacter (c : Byte) (s : State) : State :=
  match s.link.rx with
  | .empty => collect [c] s
  | .collecting bytes => collect (bytes ++ [c]) s
  | .draining _ => s
  | .responding _ => s

/-- The characters of a frame complete one after another (R173, R174). -/
def cliFrame (bytes : List Byte) (s : State) : State := bytes.foldl (fun s c => cliCharacter c s) s

/-- A character with its stop bit at 0 (R173). -/
def cliFramingError (s : State) : State :=
  match s.link.rx with
  | .empty => s.setRx (.draining none)
  | .collecting _ => s.setRx (.draining none)
  | .draining _ => s
  | .responding _ => s

/-- 10 ms pass with no start bit (R173). -/
def cliGapTimeout (s : State) : State :=
  match s.link.rx with
  | .empty => s
  | .collecting _ => s.setRx .empty
  | .draining none => s.setRx .empty
  | .draining (some code) => respond code .format [] s
  | .responding _ => s

/-- The response ends: the receiver is EMPTY, and a RESTART that was taken is performed (R170, R175). -/
def responseEnd (t : Instant) (s : State) : State :=
  match s.link.rx with
  | .responding _ => if s.link.restartPending then restart t s else s.setRx .empty
  | .empty => s
  | .collecting _ => s
  | .draining _ => s

/-- The row of a command stands for the arrival of its frame (log 16): the characters complete one after another, as those
of CLI_FRAME. In EMPTY they make the frame and the command is taken, in COLLECTING they are appended to what is collected,
and in DRAINING and RESPONDING they are discarded (R173 to R175). -/
def command (r : Request) (s : State) : State := cliFrame (requestFrame r) s

/-! ### The link's rows -/

/-- CLI_FRAME (R174). -/
def execCliFrame (bytes : List Byte) (s : State) : Host.Outcome State Fault Refusal :=
  .next (whenRunning (cliFrame bytes) s)

/-- CLI_FRAMING_ERROR (R173). -/
def execCliFramingError (s : State) : Host.Outcome State Fault Refusal := .next (whenRunning cliFramingError s)

/-- CLI_LENGTH_OVERRUN (R173): the character that gives a body length above 64. -/
def execCliLengthOverrun (length : Byte) (s : State) : Host.Outcome State Fault Refusal :=
  .next (whenRunning (cliCharacter length) s)

/-- CLI_GAP_TIMEOUT (R173). -/
def execCliGapTimeout (s : State) : Host.Outcome State Fault Refusal := .next (whenRunning cliGapTimeout s)

/-- CLI_CHARACTER (R173). -/
def execCliCharacter (c : Byte) (s : State) : Host.Outcome State Fault Refusal :=
  .next (whenRunning (cliCharacter c) s)

/-- RESPONSE_END (R175). -/
def execResponseEnd (t : Instant) (s : State) : Host.Outcome State Fault Refusal :=
  .next (whenRunning (responseEnd t) s)

/-! ### The command rows -/

/-- STATUS_READ (R179). -/
def execStatusRead (s : State) : Host.Outcome State Fault Refusal := .next (whenRunning (command .statusRead) s)

/-- EVENTS_READ (R184). -/
def execEventsRead (s : State) : Host.Outcome State Fault Refusal := .next (whenRunning (command .eventsRead) s)

/-- EVENTS_CLEAR (R184). -/
def execEventsClear (mask : Word24) (s : State) : Host.Outcome State Fault Refusal :=
  .next (whenRunning (command (.eventsClear mask)) s)

/-- EVENTS_ENABLE (R184). -/
def execEventsEnable (mask : Word24) (s : State) : Host.Outcome State Fault Refusal :=
  .next (whenRunning (command (.eventsEnable mask)) s)

/-- PEERS_READ (R180). -/
def execPeersRead (s : State) : Host.Outcome State Fault Refusal := .next (whenRunning (command .peersRead) s)

/-- CONCORD_READ (R180). -/
def execConcordRead (s : State) : Host.Outcome State Fault Refusal := .next (whenRunning (command .concordRead) s)

/-- AIRLOG_READ (R181). -/
def execAirlogRead (s : State) : Host.Outcome State Fault Refusal := .next (whenRunning (command .airlogRead) s)

/-- DESC_WRITE (R144). -/
def execDescWrite (body : DescBody) (s : State) : Host.Outcome State Fault Refusal :=
  .next (whenRunning (command (.descWrite body)) s)

/-- DESC_HAND (R145). -/
def execDescHand (index : Byte) (s : State) : Host.Outcome State Fault Refusal :=
  .next (whenRunning (command (.descHand index)) s)

/-- DESC_RECALL (R146). -/
def execDescRecall (index : Byte) (s : State) : Host.Outcome State Fault Refusal :=
  .next (whenRunning (command (.descRecall index)) s)

/-- DESC_READ (R147). -/
def execDescRead (index : Byte) (s : State) : Host.Outcome State Fault Refusal :=
  .next (whenRunning (command (.descRead index)) s)

/-- LANE_START (R160). -/
def execLaneStart (lane head spacing report : Byte) (s : State) : Host.Outcome State Fault Refusal :=
  .next (whenRunning (command (.laneStart lane head spacing report)) s)

/-- LANE_STOP (R161). -/
def execLaneStop (lane : Byte) (s : State) : Host.Outcome State Fault Refusal :=
  .next (whenRunning (command (.laneStop lane)) s)

/-- LANE_RESUME (R161). -/
def execLaneResume (lane : Byte) (s : State) : Host.Outcome State Fault Refusal :=
  .next (whenRunning (command (.laneResume lane)) s)

/-- LANE_CLEAR (R162). -/
def execLaneClear (lane : Byte) (s : State) : Host.Outcome State Fault Refusal :=
  .next (whenRunning (command (.laneClear lane)) s)

/-- ZONE_ADD (R47). -/
def execZoneAdd (start : Word32) (state : Byte) (s : State) : Host.Outcome State Fault Refusal :=
  .next (whenRunning (command (.zoneAdd start state)) s)

/-- ZONE_REMOVE (R48). -/
def execZoneRemove (start : Word32) (s : State) : Host.Outcome State Fault Refusal :=
  .next (whenRunning (command (.zoneRemove start)) s)

/-- ZONE_READ (R49). -/
def execZoneRead (s : State) : Host.Outcome State Fault Refusal := .next (whenRunning (command .zoneRead) s)

/-- REQUEST_SET (R86). -/
def execRequestSet (steady quiet : Byte) (s : State) : Host.Outcome State Fault Refusal :=
  .next (whenRunning (command (.requestSet steady quiet)) s)

/-- KEY_YIELD (R111). -/
def execKeyYield (s : State) : Host.Outcome State Fault Refusal := .next (whenRunning (command .keyYield) s)

/-- READMIT (R118). -/
def execReadmit (s : State) : Host.Outcome State Fault Refusal := .next (whenRunning (command .readmit) s)

/-- RESTART (R170). -/
def execRestart (s : State) : Host.Outcome State Fault Refusal := .next (whenRunning (command .restart) s)

end Sys2Proof.Machine
end

