-- ==== Sys2Proof/Machine/Dispatch.lean ====
section
/-! DEFINITION. The meaning of every command: one arm for each constructor of `Instr`. -/

namespace Sys2Proof.Machine

/-- The command's effect on everything but the queue. -/
def exec (i : Instr) (s : State) : Host.Outcome State Fault Refusal :=
  match i with
  | .powerOn => Sys2Proof.Machine.execPowerOn s
  | .rstnAssert => Sys2Proof.Machine.execRstnAssert s
  | .rstnRelease => Sys2Proof.Machine.execRstnRelease s
  | .supplyLoss => Sys2Proof.Machine.execSupplyLoss s
  | .startIntervalEnd at_ pins => Sys2Proof.Machine.execStartIntervalEnd at_ pins s
  | .refpEdge at_ => Sys2Proof.Machine.execRefpEdge at_ s
  | .referenceMessage ninth => Sys2Proof.Machine.execReferenceMessage ninth s
  | .refdFramingError => Sys2Proof.Machine.execRefdFramingError s
  | .messageWindowExpiry => Sys2Proof.Machine.execMessageWindowExpiry s
  | .notionalReferenceSecond => Sys2Proof.Machine.execNotionalReferenceSecond s
  | .ownEdge => Sys2Proof.Machine.execOwnEdge s
  | .realign => Sys2Proof.Machine.execRealign s
  | .tickStart => Sys2Proof.Machine.execTickStart s
  | .strobeEnd => Sys2Proof.Machine.execStrobeEnd s
  | .kylReadback => Sys2Proof.Machine.execKylReadback s
  | .cusPulseEnd => Sys2Proof.Machine.execCusPulseEnd s
  | .ownWindowStart => Sys2Proof.Machine.execOwnWindowStart s
  | .lateSync => Sys2Proof.Machine.execLateSync s
  | .syncDriveEnd => Sys2Proof.Machine.execSyncDriveEnd s
  | .syncEdgeObserved at_ => Sys2Proof.Machine.execSyncEdgeObserved at_ s
  | .deadWindow => Sys2Proof.Machine.execDeadWindow s
  | .cellDriveStart => Sys2Proof.Machine.execCellDriveStart s
  | .holdCellSample others => Sys2Proof.Machine.execHoldCellSample others s
  | .shadowSample others => Sys2Proof.Machine.execShadowSample others s
  | .flagCellSample others => Sys2Proof.Machine.execFlagCellSample others s
  | .vacancy => Sys2Proof.Machine.execVacancy s
  | .digestCellSample others => Sys2Proof.Machine.execDigestCellSample others s
  | .passResult => Sys2Proof.Machine.execPassResult s
  | .assentCellSample others => Sys2Proof.Machine.execAssentCellSample others s
  | .passDecision => Sys2Proof.Machine.execPassDecision s
  | .biddingSample others => Sys2Proof.Machine.execBiddingSample others s
  | .bidvalueCellSample others => Sys2Proof.Machine.execBidvalueCellSample others s
  | .windowClose => Sys2Proof.Machine.execWindowClose s
  | .cliFrame bytes => Sys2Proof.Machine.execCliFrame bytes s
  | .cliFramingError => Sys2Proof.Machine.execCliFramingError s
  | .cliLengthOverrun length => Sys2Proof.Machine.execCliLengthOverrun length s
  | .cliGapTimeout => Sys2Proof.Machine.execCliGapTimeout s
  | .responseEnd at_ => Sys2Proof.Machine.execResponseEnd at_ s
  | .statusRead => Sys2Proof.Machine.execStatusRead s
  | .eventsRead => Sys2Proof.Machine.execEventsRead s
  | .eventsClear mask => Sys2Proof.Machine.execEventsClear mask s
  | .eventsEnable mask => Sys2Proof.Machine.execEventsEnable mask s
  | .peersRead => Sys2Proof.Machine.execPeersRead s
  | .concordRead => Sys2Proof.Machine.execConcordRead s
  | .airlogRead => Sys2Proof.Machine.execAirlogRead s
  | .descWrite body => Sys2Proof.Machine.execDescWrite body s
  | .descHand index => Sys2Proof.Machine.execDescHand index s
  | .descRecall index => Sys2Proof.Machine.execDescRecall index s
  | .descRead index => Sys2Proof.Machine.execDescRead index s
  | .laneStart lane head spacing report => Sys2Proof.Machine.execLaneStart lane head spacing report s
  | .laneStop lane => Sys2Proof.Machine.execLaneStop lane s
  | .laneResume lane => Sys2Proof.Machine.execLaneResume lane s
  | .laneClear lane => Sys2Proof.Machine.execLaneClear lane s
  | .zoneAdd start state => Sys2Proof.Machine.execZoneAdd start state s
  | .zoneRemove start => Sys2Proof.Machine.execZoneRemove start s
  | .zoneRead => Sys2Proof.Machine.execZoneRead s
  | .requestSet steady quiet => Sys2Proof.Machine.execRequestSet steady quiet s
  | .keyYield => Sys2Proof.Machine.execKeyYield s
  | .readmit => Sys2Proof.Machine.execReadmit s
  | .restart => Sys2Proof.Machine.execRestart s
  | .refdCharacter char => Sys2Proof.Machine.execRefdCharacter char s
  | .cliCharacter char => Sys2Proof.Machine.execCliCharacter char s
  | .keyingBusChange at_ peer => Sys2Proof.Machine.execKeyingBusChange at_ peer s

end Sys2Proof.Machine
end

