-- ==== Sys2Proof/Safety.lean ====
section
/-! DEFINITION. What is true of the unit in every state that a run reaches: conditions on the state that the spec states
as holding always, written as predicates that every step is to keep. -/

namespace Sys2Proof.Machine

/-- A CONTROLLER-owned descriptor is claimed by no lane (R143). That a claim is by at most one lane is the type of the
claim field. -/
def State.storeOk (s : State) : Prop := ∀ i : DescIndex, (s.desc i).owner = .controller → (s.desc i).claim = none

/-- The zone table is kept in order of instant, no two entries at one instant, at most 16 of them (3.2, R38, R47). -/
def State.zoneOk (s : State) : Prop := s.zone.Pairwise (fun a b => a.start < b.start) ∧ s.zone.length ≤ 16

/-- While the count is valid at most one entry is past (R38). -/
def State.pastOk (s : State) : Prop :=
  s.trk.countValid = true → (s.zone.filter fun e => decide (e.start ≤ s.trk.minute)).length ≤ 1

/-- The unit drives KYL, KYA or KYR only with its drivers enabled, which they are only in HOLDING or YIELDING, and only in
a minute whose CURRENT draft is CODED and whose record gives CONCORD and the role ASSENT (R104, R105, R125). -/
def State.keyingOk (s : State) : Prop :=
  (s.keying.own ≠ linesReleased → s.keying.out = .bus)
    ∧ (s.keying.out = .bus → s.key.drivers = true ∧ s.keyingConditions = true)
    ∧ (s.key.drivers = true → s.key.state.isHolder = true)

/-- Bit 23 of the latches and of the enable mask belongs to no event and is 0 (R183, R184). -/
def State.eventsOk (s : State) : Prop := s.ev.latches &&& noEventBit = 0 ∧ s.ev.mask &&& noEventBit = 0

/-- The air log holds at most 8 records, in the order of the minutes they describe (R138). -/
def State.logOk (s : State) : Prop := s.dec.log.Pairwise (fun a b => a.minute < b.minute) ∧ s.dec.log.length ≤ 8

/-- A record holds a digest exactly when its outcome is CONCORD, and then its tally is at least the quorum (R89). -/
def ConcordRecord.ok (roll : Nat) (r : ConcordRecord) : Prop :=
  (r.digest.isSome = true ↔ r.outcome = .concord) ∧ (r.outcome = .concord → quorum roll ≤ r.tally)

/-- Every concord record held is as R89 says; before the straps are sampled the unit holds none (R90). -/
def State.recordsOk (s : State) : Prop :=
  (∀ r, s.nextRec = some r → r.ok s.straps.roll)
    ∧ (∀ r, s.curRec = some r → r.ok s.straps.roll)
    ∧ (s.pwr.starting = true → s.nextRec = none ∧ s.curRec = none)

/-- A draft and its concord record are held together and are of one minute (R89, R101, R102). -/
def State.pairsOk (s : State) : Prop :=
  s.next.map Draft.minute = s.nextRec.map ConcordRecord.minute
    ∧ s.current.map Draft.minute = s.curRec.map ConcordRecord.minute

/-- A lane's airings done are 0 until the repeat count is taken, and never exceed a repeat count other than 0 (R156). -/
def Lane.airingsOk (x : Lane) : Prop :=
  (x.repeats = none → x.airings = 0) ∧ (∀ n, x.repeats = some n → n ≠ 0 → x.airings ≤ n)

/-- Every lane's airings are within its repeats (R156). -/
def State.airingsOk (s : State) : Prop := ∀ l : LaneNo, (s.laneAt l).airingsOk

/-- The rotation order is a list of the four lane numbers, each once (R149). -/
def State.rotationOk (s : State) : Prop := s.lanes.rotation.Perm [0, 1, 2, 3]

/-! ### When the unit is ready for a command -/

/-- The events that are taken whether or not the unit runs: supply, RSTN, the end of the start interval (R165, R167), and
the level of the keying bus, which other units drive. -/
def takenAlways : Instr → Bool
  | .powerOn => true
  | .rstnAssert => true
  | .rstnRelease => true
  | .supplyLoss => true
  | .startIntervalEnd _ _ => true
  | .keyingBusChange _ _ => true
  | _ => false

/-- The unit runs and its receiver is EMPTY, so that the next character begins a frame (R173). -/
def State.hears (s : State) : Prop := s.running = true ∧ s.link.rx = .empty

/-- The cell in progress of a live window is `cell`, and its sample point has not passed. -/
abbrev State.beforeSample (cell : Nat) (s : State) : Prop :=
  s.running = true ∧ s.win.phase ≠ .over ∧ s.win.alignment ≠ none ∧ s.win.sampled = false ∧ s.win.cell = cell

/-- The cell in progress of a live window is `cell`, and it has just been read. -/
abbrev State.afterSample (cell : Nat) (s : State) : Prop :=
  s.running = true ∧ s.win.phase ≠ .over ∧ s.win.alignment ≠ none ∧ s.win.sampled = true ∧ s.win.cell = cell

/-- The next own edge is an own minute boundary: the count is valid and the second in progress is the last of its minute,
as the count runs (R25). -/
abbrev State.boundaryAhead (s : State) : Prop :=
  s.running = true ∧ s.trk.countValid = true ∧ minuteLength s.trk.minute s.trk.plan ≤ s.trk.second + 1

/-- `t` is `s` after a collision (R113): the lines are released at once, the key items are set, COLLISION is raised, and
nothing else changes but what the decoder has seen of the lines. -/
def State.collidesTo (s t : State) : Prop :=
  ∃ bus loop : List LineSample,
    t =
      { s with
        key :=
          { s.key with
            drivers := false
            bidBar := true
            pendingRelease := false
            state := if s.key.pendingFence then s.key.state else .standby
            heldEdges := if s.key.pendingFence then s.key.heldEdges else 0 }
        keying := { s.keying with out := .none, own := linesReleased, loop := linesReleased }
        dec := { s.dec with busTrace := bus, loopTrace := loop }
        ev := (s.raise .collision).ev }

/-- What a reading of the reference state does in the proof minute: one that is neither LOCKED nor HOLDOVER clears the
reference-held flag (R119). -/
def KeyCtl.referenceRead (r : RefState) (k : KeyCtl) : KeyCtl :=
  if k.proof.running = true ∧ r ≠ .locked ∧ r ≠ .holdover then { k with proof := { k.proof with refHeld := false } } else k

/-- The zone table of `t` is that of `s` settled against minute `c` (R46): of the entries at or before `c` the latest alone
stays, every later entry stays, and the order of instant is kept. ZONE_APPLIED is raised when the entry that becomes past was
not `before`, the past entry until now. -/
def State.settlesTo (c : Nat) (before : Option ZoneEntry) (s t : State) : Prop :=
  let latest (e : ZoneEntry) : Prop :=
    e ∈ s.zone ∧ e.start ≤ c ∧ ∀ e' ∈ s.zone, e'.start ≤ c → e'.start ≤ e.start
  (∀ e, e ∈ t.zone ↔ latest e ∨ (e ∈ s.zone ∧ c < e.start))
    ∧ t.zone.Pairwise (fun a b => a.start < b.start)
    ∧ (t.latched .zoneApplied = true ↔ s.latched .zoneApplied = true ∨ ∃ e, latest e ∧ before ≠ some e)

/-- In `t` lane `l` has arrived by credit where the cursor of `x` points, from the lane `x` and the store `before` (R150,
Table 9.4): a STOPPED lane stays STOPPED, and the failing cases then leave it as it is. -/
def State.arrivesByCredit (l : LaneNo) (x : Lane) (before : DescIndex → Descriptor) (t : State) : Prop :=
  match x.cursor with
  | none => t.laneAt l = { x with state := .stopped } ∧ ∀ j, t.desc j = before j
  | some i =>
    if (before i).owner = .controller then
      (∀ j, t.desc j = before j)
        ∧ (x.state = .stopped → t.laneAt l = x)
        ∧ (x.state ≠ .stopped →
          t.laneAt l = { x with state := .starved } ∧ t.latched .laneStarved = true ∧ t.lanes.lastEvent = some l)
    else if (before i).claim = none ∨ (before i).claim = some l then
      t.desc i = { before i with claim := some l } ∧ (∀ j, j ≠ i → t.desc j = before j)
        ∧ t.laneAt l =
            { x with
              state := if x.state = .stopped then .stopped else if 0 < x.countdown then .waiting else .running
              repeats := if x.start = some i ∧ x.repeats = none then some (before i).repeats else x.repeats }
    else
      (∀ j, t.desc j = before j)
        ∧ (x.state = .stopped → t.laneAt l = x)
        ∧ (x.state ≠ .stopped →
          t.laneAt l = { x with state := .faulted } ∧ t.latched .laneFault = true ∧ t.lanes.lastEvent = some l)

/-- The fields of a descriptor other than owner, claim and aired count (R143). -/
def Descriptor.sameContent (d e : Descriptor) : Prop :=
  e.annId = d.annId ∧ e.segNo = d.segNo ∧ e.lastSeg = d.lastSeg ∧ e.repeats = d.repeats ∧ e.endFlag = d.endFlag
    ∧ e.link = d.link ∧ e.cues = d.cues ∧ e.payload = d.payload

end Sys2Proof.Machine
end

