-- ==== Sys2Proof/Certificates/Slice0/Obligations.lean ====
section
/-! DEFINITION. The statements for the provers. Each names the commands it speaks of; a result is stated as the next state
that `exec` answers, so that what is not written is unchanged. Lengths of time are in microseconds. -/

open Sys2Proof Sys2Proof.Machine

/-! ### The step, supply and reset -/

/-- A step runs the command at the front of the queue on the queue's rest. That an empty queue idles is the model's choice
(log 3). -/
def Obligations.StepRunsTheFrontCommand : Prop :=
  (∀ (c : Instr) (rest : List Instr) (s : State),
      step { s with pending := c :: rest } = exec c { s with pending := rest })
    ∧ ∀ s : State, s.pending = [] → step s = .next s

/-- No command stops the unit or touches the queue, and outside operation (in reset, without supply, in the start interval)
every event but those of supply, RSTN, the start interval and the level of the keying bus changes nothing (R165). -/
def Obligations.EveryCommandAnswersNext : Prop :=
  (∀ (c : Instr) (s : State), ∃ t, exec c s = .next t ∧ t.pending = s.pending)
    ∧ ∀ (c : Instr) (s : State), takenAlways c = false → s.running = false → exec c s = .next s

/-- The supply and RSTN rows set every block to its power-on values (R165). What is outside the unit stays: the queue, the
other units' lines, and the counter of free choices. That the state is so after a loss of supply is the model's choice
(log 6), and so are a power-on and a second release with RSTN as they find it (log 21).
The power-on values: tracker (R36), store (R142), lanes (R148, R149), drafts and records (R52, R90), peer table and requests
(R80, R86), key controller (R122), lines (R126), decoder (R139, R141), link and events (R173, R182, R183), zone table
(R38). The values that no rule gives are the model's choice: the straps go back to position 0, precedence 0, roll 1,
offset 0 and FIXED (log 4), and the tracker, key controller, keying, decoder and window take the values that log 5 lists.
That no hand-over has been noted is the model's own field (log 36). -/
def Obligations.SupplyAndResetSetPowerOnValues : Prop :=
  (∀ s : State, ∃ values : Power → State,
    (∀ pwr, values pwr =
      { State.reset with
        pending := s.pending
        freeIdx := s.freeIdx
        pwr := pwr
        keying := { State.reset.keying with peer := s.keying.peer }
        dec := { State.reset.dec with busBase := s.keying.peer } })
      ∧ exec .powerOn s = .next (values ⟨true, s.pwr.rstnLow, !s.pwr.rstnLow⟩)
      ∧ exec .rstnAssert s = .next (values ⟨s.pwr.supply, true, false⟩)
      ∧ (s.pwr.rstnLow = true → exec .rstnRelease s = .next (values ⟨s.pwr.supply, false, s.pwr.supply⟩))
      ∧ (s.pwr.rstnLow = false → exec .rstnRelease s = .next s)
      ∧ exec .supplyLoss s = .next (values ⟨false, s.pwr.rstnLow, false⟩))
    ∧ let s := State.reset
      (s.trk.refState = .acquiring ∧ s.trk.countValid = false ∧ s.trk.plan = .none ∧ s.trk.planFrozen = false
          ∧ s.trk.holdover = 0 ∧ s.trk.goodRun = 0 ∧ s.trk.badRun = 0 ∧ s.trk.stepConf = 0 ∧ s.trk.armed = false
          ∧ s.trk.prevRef = none ∧ s.trk.openMsg = none)
        ∧ s.zone = []
        ∧ (∀ i, s.desc i = ⟨.controller, none, 0, 0, 0, 0, false, none, [], List.replicate 48 0, 0⟩)
        ∧ (∀ l, s.laneAt l = ⟨.stopped, none, none, 0, none, 0, 0, .aired, none⟩)
        ∧ s.lanes.rotation = [0, 1, 2, 3] ∧ s.lanes.lastEvent = none
        ∧ s.next = none ∧ s.current = none ∧ s.nextRec = none ∧ s.curRec = none ∧ s.handedOver = false
        ∧ s.winRec = none ∧ (∀ p : Fin 8, s.peers[p] = ⟨false, false, 0, none, false⟩)
        ∧ s.req.steady = false ∧ s.req.quiet = false
        ∧ (s.key.state = .dormant ∧ s.key.drivers = false ∧ s.key.bidBar = false ∧ s.key.pendingTake = none
          ∧ s.key.pendingRelease = false ∧ s.key.pendingFence = false ∧ s.key.unsupported = 0 ∧ s.key.askewRun = 0
          ∧ s.key.listening = 0 ∧ s.key.beaconAbsent = false ∧ s.key.proof.minute = none)
        ∧ s.keying.out = .none ∧ s.keying.own = linesReleased
        ∧ s.dec.openMinute = none ∧ s.dec.log = [] ∧ s.dec.lastCue = 0 ∧ s.dec.cus = false
        ∧ s.link.rx = .empty ∧ s.ev.latches = 0 ∧ s.ev.mask = 0 ∧ s.atn = false
        ∧ s.pwr = ⟨true, false, true⟩ ∧ s.running = false

/-- At the end of the start interval the straps are sampled and held as Table 10.1 codes them, the row of the strapped
position becomes the self row, the first own edge is given and the unit runs (R166, R167). -/
def Obligations.StartIntervalEndBeginsOperation : Prop :=
  ∀ (t : Instant) (pins : StrapPins) (s : State), s.pwr = ⟨true, false, true⟩ →
    ∃ u, exec (.startIntervalEnd t pins) s = .next u
      ∧ u.running = true
      ∧ u.straps.position.val = pins.pos.toNat ∧ u.straps.precedence.val = pins.prec.toNat
      ∧ u.straps.roll = pins.roll.toNat + 1
      ∧ u.straps.offset = max (-48) (min 56 pins.zofs.toInt)
      ∧ u.straps.order = (if pins.lord then .rotate else .fixed)
      ∧ (∀ p : Fin 8, u.peers[p] = { s.peers[p] with self := decide (p.val = pins.pos.toNat) })
      ∧ u.trk = { s.trk with
          anchor := t, lastEdge := t, byOscillator := true, validAtEdge := false, marks := [⟨t, none⟩] }
      ∧ u = { s with
          pwr := ⟨true, false, false⟩
          straps := u.straps
          trk := u.trk
          peers := u.peers
          keying := { s.keying with nextTick := 0 }
          win := Window.neutral .waiting }

/-! ### The reference port (chapter 2) -/

/-- A REFP edge opens a message window of its own (R20, R22); an open message is first ended as missing, and the edge then
steers in the state that this leaves (log 31). In LOCKED an edge
at least 995 ms and less than 1000 ms after the anchor is itself the next own edge, and one within 5 ms after an own edge
given by the oscillator becomes the anchor; in every other state it steers nothing (R24). -/
def Obligations.RefpEdgeOpensItsMessageAndSteers : Prop :=
  (∀ (t : Instant) (s : State), s.running = true → s.trk.openMsg = none →
    exec (.refpEdge t) s =
      .next { s with
        trk :=
          if s.trk.refState = .locked then
            if s.trk.accepted = none ∧ s.trk.anchor + 995000 ≤ t ∧ t < s.trk.anchor + 1000000 then
              { s.trk with openMsg := some ⟨t, []⟩, accepted := some t }
            else if s.trk.byOscillator = true ∧ s.trk.lastEdge ≤ t ∧ t ≤ s.trk.lastEdge + 5000 then
              { s.trk with openMsg := some ⟨t, []⟩, anchor := t }
            else { s.trk with openMsg := some ⟨t, []⟩ }
          else { s.trk with openMsg := some ⟨t, []⟩ } })
    ∧ ∀ (t : Instant) (s u : State), s.running = true → exec .messageWindowExpiry s = .next u →
      exec (.refpEdge t) s = exec (.refpEdge t) u

/-- A REFD character is taken into the open message until the ninth, and one that completes outside any open message has no
effect, whichever row it comes by; so have a framing error and an expiry without an open message (R20). -/
def Obligations.CharactersFillTheOpenMessage : Prop :=
  (∀ (b : Byte) (o : OpenMessage) (s : State), s.running = true → s.trk.openMsg = some o → o.chars.length < 8 →
    exec (.refdCharacter b) s =
      .next { s with trk := { s.trk with openMsg := some { o with chars := o.chars ++ [b] } } })
    ∧ (∀ (b : Byte) (s : State), s.trk.openMsg = none →
      exec (.refdCharacter b) s = .next s ∧ exec (.referenceMessage b) s = .next s)
    ∧ ∀ s : State, s.trk.openMsg = none →
      exec .refdFramingError s = .next s ∧ exec .messageWindowExpiry s = .next s

/-- A complete message is decoded exactly when its check byte is right and each field lies in range, and it names the UTC
second that its fields give; as a count that second is the whole days from 2000-01-01 times 1440 plus the second of day
by 60, and the rest, with 86400 taken as minute 1439, second 60. A complete message that is not decoded is used no more than a
missing one (R21). -/
def Obligations.ReferenceMessageDecoding : Prop :=
  (∀ (b : Byte) (o : OpenMessage) (s : State), s.trk.openMsg = some o → o.chars.length = 8 →
      decodeMessage (o.chars ++ [b]) = none → exec (.referenceMessage b) s = exec .refdFramingError s)
    ∧ ∀ (b0 b1 b2 b3 b4 b5 b6 b7 b8 : Byte) (m : RefMessage),
    let year := b0.toNat
    let doy := 256 * b1.toNat + b2.toNat
    let sod := 65536 * b3.toNat + 256 * b4.toNat + b5.toNat
    let day := ((List.range year).map fun y => if y % 4 = 0 then 366 else 365).sum + (doy - 1)
    (decodeMessage [b0, b1, b2, b3, b4, b5, b6, b7, b8] = some m ↔
      b8 = crc8 [b0, b1, b2, b3, b4, b5, b6, b7]
        ∧ year ≤ 99 ∧ 1 ≤ doy ∧ doy ≤ (if year % 4 = 0 then 366 else 365)
        ∧ ((sod ≤ 86399 ∧ ¬(sod = 86399 ∧ b6 = 0x02)) ∨ (sod = 86400 ∧ b6 = 0x01))
        ∧ (b6 = 0x00 ∧ m.plan = .none ∨ b6 = 0x01 ∧ m.plan = .insert ∨ b6 = 0x02 ∧ m.plan = .delete)
        ∧ (b7 = 0x00 ∧ m.healthGood = true ∨ b7 = 0x01 ∧ m.healthGood = false)
        ∧ m.time = ⟨day, sod⟩)
    ∧ (decodeMessage [b0, b1, b2, b3, b4, b5, b6, b7, b8] = some m →
        m.time.toCount =
          if sod = 86400 then ⟨day * 1440 + 1439, 60⟩ else ⟨day * 1440 + sod / 60, sod % 60⟩)

/-- A reference second that is not good acts on the reference state. It is one with a missing message, a notional one 1000 ms
after the previous one, or one whose decoded message is POOR, comes outside 995 to 1005 ms or breaks the continuity (R22,
R23, R26). A decoded second takes its message's time and plan, and every other one carries the reference time on (R22).
ACQUIRING, HOLDOVER and EXPIRED lose their good run (R26, R31, R32), the second in a row in LOCKED leads to HOLDOVER with
REF_LOST (R27), and one in STEPPING ends the step as a loss (R29). In the proof minute the judgement reads the reference
state (R119). That the good run is 0 on entering HOLDOVER and on the end of a step is the model's choice (log 22). -/
def Obligations.NotGoodSecondActsOnTheReferenceState : Prop :=
  ∀ (c : Instr) (s : State) (instant : Instant) (judged : RefSecond), s.running = true →
    (let carried : RefSecond :=
      match s.trk.prevRef with
      | some ⟨_, some u, plan⟩ => ⟨instant, some (u.successor plan), plan⟩
      | _ => ⟨instant, none, .none⟩
    let good (m : RefMessage) : Prop :=
      m.healthGood = true ∧ ∃ p u, s.trk.prevRef = some p ∧ p.instant + 995000 ≤ instant ∧ instant ≤ p.instant + 1005000
        ∧ p.time = some u ∧ m.time = u.successor p.plan
    ((c = .refdFramingError ∨ c = .messageWindowExpiry) ∧ judged = carried
        ∧ ∃ chars, s.trk.openMsg = some ⟨instant, chars⟩)
      ∨ (c = .notionalReferenceSecond ∧ judged = carried ∧ s.trk.openMsg = none
          ∧ ∃ p, s.trk.prevRef = some p ∧ instant = p.instant + 1000000)
      ∨ (∃ b chars m, c = .referenceMessage b ∧ s.trk.openMsg = some ⟨instant, chars⟩ ∧ chars.length = 8
          ∧ decodeMessage (chars ++ [b]) = some m ∧ ¬good m ∧ judged = ⟨instant, some m.time, m.plan⟩)) →
    let k : Tracker := { s.trk with openMsg := none, prevRef := some judged }
    ∃ t, exec c s = .next t
      ∧ t = { s with trk := t.trk, key := t.key, ev := t.ev }
      ∧ t.key = s.key.referenceRead t.trk.refState
      ∧ (match s.trk.refState with
        | .acquiring => t.trk = { k with goodRun := 0 } ∧ t.ev = s.ev
        | .holdover => t.trk = { k with goodRun := 0 } ∧ t.ev = s.ev
        | .expired => t.trk = { k with goodRun := 0 } ∧ t.ev = s.ev
        | .locked =>
          if s.trk.badRun = 0 then t.trk = { k with badRun := 1 } ∧ t.ev = s.ev
          else
            t.trk = { k with badRun := 2, refState := .holdover, holdover := 0, goodRun := 0 }
              ∧ t.ev = (s.raise .refLost).ev
        | .stepping =>
          t.trk =
              { k with
                stepConf := 0
                armed := false
                goodRun := 0
                refState := if 3600 ≤ s.trk.holdover then .expired else .holdover }
            ∧ t.ev = (s.raise .refLost).ev)

/-- In ACQUIRING a good second adds one to the good run, and the fourth sets the count valid to its time, the anchor to its
REFP edge, the plan from its message and the runs and the holdover count to 0, makes the tracker LOCKED and raises
REF_LOCKED (R26); the zone table is settled, with ZONE_APPLIED when an entry becomes past (R46), the second in progress carries
the new time, and the decoder opens a minute whose seconds so far are unobserved
(R131). In a proof minute the judgement reads the reference state (R119). That no loop entry stands for those seconds is the
model's choice (log 33). -/
def Obligations.GoodSecondInAcquiring : Prop :=
  ∀ (b : Byte) (o : OpenMessage) (m : RefMessage) (p : RefSecond) (u : UtcTime) (s : State), s.running = true →
    s.trk.refState = .acquiring →
    s.trk.openMsg = some o → o.chars.length = 8 → decodeMessage (o.chars ++ [b]) = some m →
    m.healthGood = true → s.trk.prevRef = some p → p.instant + 995000 ≤ o.edge → o.edge ≤ p.instant + 1005000 →
    p.time = some u → m.time = u.successor p.plan →
    ∃ t, exec (.referenceMessage b) s = .next t
      ∧ t.trk.openMsg = none ∧ t.trk.prevRef = some ⟨o.edge, some m.time, m.plan⟩
      ∧ t = { s with trk := t.trk, zone := t.zone, dec := t.dec, ev := t.ev, key := t.key }
      ∧ t.key = s.key.referenceRead t.trk.refState
      ∧ (s.trk.goodRun < 3 →
        t.trk = { s.trk with openMsg := none, prevRef := t.trk.prevRef, goodRun := s.trk.goodRun + 1 }
          ∧ t.zone = s.zone ∧ t.dec = s.dec ∧ t.ev = s.ev)
      ∧ (3 ≤ s.trk.goodRun →
        t.trk.refState = .locked ∧ t.trk.countValid = true
          ∧ (⟨t.trk.minute, t.trk.second⟩ : CountTime) = m.time.toCount
          ∧ t.trk.anchor = o.edge
          ∧ t.trk.plan = (if s.trk.planFrozen then s.trk.plan else m.plan)
          ∧ t.trk.badRun = 0 ∧ t.trk.goodRun = 0 ∧ t.trk.holdover = 0
          ∧ t.latched .refLocked = true
          ∧ t.trk.marks =
              (match s.trk.marks with
              | [] => []
              | k :: rest => { k with time := some m.time.toCount } :: rest)
          ∧ t.zone = settledTable t.trk.minute s.zone
          ∧ (s.zoneOk → s.settlesTo t.trk.minute none t)
          ∧ t.dec.openMinute =
              some ⟨t.trk.minute, List.replicate (t.trk.second + 1) ⟨.unclear, [], false, false, none⟩, [], 0⟩)

/-- A good second in a state in which the count runs. It agrees when its edge lies within 5 ms of an own edge whose second
the count gave its time (R23). LOCKED: agreeing clears the bad run and sets the plan, disagreeing leads to STEPPING with
REF_STEP (R27, R28). HOLDOVER and EXPIRED: agreeing adds to the good run, and the fourth makes the tracker LOCKED with
REF_LOCKED; disagreeing leads to STEPPING (R31, R32). STEPPING: disagreeing confirms, four times arm the realign; agreeing
returns to the step origin (R29). In the proof minute the judgement reads the reference state (R119). Three things here are
the model's choice: the good run is 0 after an entry to LOCKED and kept where R29 names no value (log 22), the plan stays on
a return from STEPPING to LOCKED (log 27), and an own edge to agree with is looked for among the four kept (log 26). -/
def Obligations.GoodSecondWithARunningCount : Prop :=
  ∀ (b : Byte) (o : OpenMessage) (m : RefMessage) (p : RefSecond) (u : UtcTime) (s : State), s.running = true →
    s.trk.countValid = true →
    s.trk.openMsg = some o → o.chars.length = 8 → decodeMessage (o.chars ++ [b]) = some m →
    m.healthGood = true → s.trk.prevRef = some p → p.instant + 995000 ≤ o.edge → o.edge ≤ p.instant + 1005000 →
    p.time = some u → m.time = u.successor p.plan →
    let agrees : Prop := ∃ k ∈ s.trk.marks, o.edge ≤ k.instant + 5000 ∧ k.instant ≤ o.edge + 5000
      ∧ k.time = some m.time.toCount
    let k : Tracker := { s.trk with openMsg := none, prevRef := some ⟨o.edge, some m.time, m.plan⟩ }
    let plan : LeapPlan := if s.trk.planFrozen then s.trk.plan else m.plan
    let stepped : Tracker :=
      { k with stepOrigin := s.trk.refState, stepConf := 1, armed := false, refState := .stepping }
    ∃ t, exec (.referenceMessage b) s = .next t
      ∧ t = { s with trk := t.trk, ev := t.ev, zone := t.zone, dec := t.dec, key := t.key }
      ∧ t.key = s.key.referenceRead t.trk.refState
      ∧ (match s.trk.refState with
        | .acquiring => True
        | .locked =>
          (agrees → t.trk = { k with badRun := 0, plan := plan } ∧ t.ev = s.ev)
            ∧ (¬agrees → t.trk = stepped ∧ t.ev = (s.raise .refStep).ev)
        | .stepping =>
          (agrees →
              t.ev = s.ev
                ∧ t.trk =
                  { k with
                    stepConf := 0
                    armed := false
                    refState := s.trk.stepOrigin
                    badRun := if s.trk.stepOrigin = .locked then 0 else s.trk.badRun
                    anchor := if s.trk.stepOrigin = .locked then o.edge else s.trk.anchor
                    goodRun := if s.trk.stepOrigin = .locked then s.trk.goodRun else 1 })
            ∧ (¬agrees →
              t.ev = s.ev
                ∧ t.trk =
                  { k with
                    stepConf := min 4 (s.trk.stepConf + 1)
                    armed := s.trk.armed || decide (3 ≤ s.trk.stepConf) })
        | _ =>
          (agrees →
              (s.trk.goodRun < 3 → t.trk = { k with goodRun := s.trk.goodRun + 1 } ∧ t.ev = s.ev)
                ∧ (3 ≤ s.trk.goodRun →
                  t.trk =
                      { k with
                        refState := .locked, anchor := o.edge, plan := plan, badRun := 0, goodRun := 0, holdover := 0 }
                    ∧ t.ev = (s.raise .refLocked).ev))
            ∧ (¬agrees → t.trk = stepped ∧ t.ev = (s.raise .refStep).ev))
      ∧ (s.trk.refState ≠ .acquiring → t.zone = s.zone ∧ t.dec = s.dec)

/-! ### The own edge (chapters 2 to 9) -/

/-- OWN_EDGE: the next own edge is an accepted REFP edge, or 1000 ms after the anchor; it becomes the anchor (R24). While the
count is valid it advances by one second, to second 0 of the next minute when the second reaches the length of its minute:
60, but 61 or 59 for minute 1439 of a day under INSERT or DELETE (R25). A window of the new second waits, its ticks start at
0, and straps, requests and link stay. The edge is noted with the time that the count gives its second (R23), and an own
minute boundary that finds the realign armed makes it due (R30). That the runs stay, the good run at an expiry too, is the
model's choice (log 22), and so is that the last four edges are kept (log 26). -/
def Obligations.OwnEdgeMovesTheCountAndTheAnchor : Prop :=
  ∀ s : State, s.running = true →
    let length :=
      if s.trk.minute % 1440 = 1439 then
        match s.trk.plan with
        | .none => 60
        | .insert => 61
        | .delete => 59
      else 60
    ∃ t, exec .ownEdge s = .next t
      ∧ t.trk.lastEdge = s.trk.accepted.getD (s.trk.anchor + 1000000)
      ∧ t.trk.anchor = t.trk.lastEdge ∧ t.trk.accepted = none ∧ t.trk.byOscillator = s.trk.accepted.isNone
      ∧ t.trk.countValid = s.trk.countValid ∧ t.trk.validAtEdge = s.trk.countValid
      ∧ (s.trk.countValid = false → t.trk.minute = s.trk.minute ∧ t.trk.second = s.trk.second)
      ∧ (s.trk.countValid = true →
        if s.trk.second + 1 < length then t.trk.minute = s.trk.minute ∧ t.trk.second = s.trk.second + 1
        else t.trk.minute = s.trk.minute + 1 ∧ t.trk.second = 0)
      ∧ t.trk.prevRef = s.trk.prevRef ∧ t.trk.openMsg = s.trk.openMsg ∧ t.trk.goodRun = s.trk.goodRun
      ∧ t.trk.badRun = s.trk.badRun ∧ t.trk.stepConf = s.trk.stepConf ∧ t.trk.armed = s.trk.armed
      ∧ t.trk.stepOrigin = s.trk.stepOrigin
      ∧ t.trk.marks =
          (⟨t.trk.lastEdge, if s.trk.countValid then some ⟨t.trk.minute, t.trk.second⟩ else none⟩ :: s.trk.marks).take 4
      ∧ (t.trk.realignDue = true ↔ s.boundaryAhead ∧ s.trk.armed = true)
      ∧ t.win = Window.neutral .waiting ∧ t.keying.nextTick = 0 ∧ t.keying.peer = s.keying.peer
      ∧ t.pwr = s.pwr ∧ t.straps = s.straps ∧ t.req = s.req ∧ t.link = s.link ∧ t.ev.mask = s.ev.mask

/-- The holdover count advances at each own edge in HOLDOVER, and at 3600 the tracker becomes EXPIRED with REF_EXPIRED
(R31); in every other state neither changes. The plan is frozen at the edge at which the count reaches 23:58:48, and at
the edge that begins 00:00:00 it becomes NONE and unfrozen, with LEAP_APPLIED after an INSERT or a DELETE (R33, R34): that
the plan's value at that edge says so, however the count came there, is the model's choice (log 37). -/
def Obligations.OwnEdgeHoldoverAndLeapPlan : Prop :=
  ∀ s : State, s.running = true → ∃ t, exec .ownEdge s = .next t
    ∧ (s.trk.refState = .holdover →
      t.trk.holdover = min 3600 (s.trk.holdover + 1)
        ∧ (s.trk.holdover + 1 < 3600 → t.trk.refState = .holdover)
        ∧ (3600 ≤ s.trk.holdover + 1 → t.trk.refState = .expired ∧ t.latched .refExpired = true))
    ∧ (s.trk.refState ≠ .holdover → t.trk.holdover = s.trk.holdover ∧ t.trk.refState = s.trk.refState)
    ∧ (s.boundaryAhead → (s.trk.minute + 1) % 1440 = 0 →
      t.trk.plan = .none ∧ t.trk.planFrozen = false ∧ (s.trk.plan ≠ .none → t.latched .leapApplied = true))
    ∧ (¬(s.boundaryAhead ∧ (s.trk.minute + 1) % 1440 = 0) →
      t.trk.plan = s.trk.plan
        ∧ t.trk.planFrozen =
          (s.trk.planFrozen
            || (s.trk.countValid && decide (s.trk.second = 47) && decide (s.trk.minute % 1440 = 1438))))

/-- At an own minute boundary NEXT becomes CURRENT (R65) and its record with it: standing and next pass are dropped, and a
record still PENDING is closed with outcome NONE, role ABSTAIN, no digest, tally 0, passes used 0 and no assenting
positions; without NEXT no record is held (R101). That a NEXT was handed over is kept for the flag standing, and no other own
edge changes it (the model's own field, log 36). -/
def Obligations.BoundaryHandsOverDraftsAndRecords : Prop :=
  (∀ s : State, s.running = true → ¬s.boundaryAhead → ∃ t, exec .ownEdge s = .next t ∧ t.handedOver = s.handedOver)
    ∧ ∀ s : State, s.boundaryAhead → ∃ t, exec .ownEdge s = .next t
    ∧ t.current = s.next ∧ t.next = none ∧ t.nextRec = none
    ∧ (t.handedOver = true ↔ s.handedOver = true ∨ s.next ≠ none)
    ∧ (s.nextRec = none → t.curRec = none)
    ∧ (∀ r, s.nextRec = some r → r.outcome ≠ .pending →
      t.curRec = some { r with standing := none, nextPass := none })
    ∧ (∀ r, s.nextRec = some r → r.outcome = .pending →
      t.curRec =
        some
          { minute := r.minute
            outcome := .none
            digest := none
            tally := 0
            passesUsed := 0
            role := some .abstain
            assenting := 0
            standing := none
            nextPass := none })

/-- At the own edge at which the count passes from second 47 to second 48, NEXT is frozen for the minute that follows (R53):
STEADY when the record read of second 47's window says so, CODED otherwise, with 60 symbols, or 61 or 59 for minute 1439
under the plan (R55), quality from HOLDOVER (R56), the calendar's answer for that minute (R44, R54), its digest (R60, R63,
R64) and its participant field (R62); its record is PENDING (R89), every assent pass is cleared (R79), and a PROVING unit
without a proof minute takes this one (R118). Which key state the freeze reads when this edge also changes it is left open
(log 10). Beyond the last minute of 2099, and at every edge that is neither such a freeze nor a boundary, no draft and no
record is made or lost; a record that awaits the pass of a window that this edge cuts or keeps from opening becomes BLIND
(R99). Two things are the model's choice: an expiry at this edge comes before the freeze (log 11), and the record of second
47's window is read only when that window has closed (log 28). -/
def Obligations.FreezeMakesNextAndItsRecord : Prop :=
  (digestImage none = [0]
    ∧ (∀ c : CodedPart,
      let code (k : Nat) : Nat :=
        match c.row[k]? with
        | some .one => 1
        | some .mark => 2
        | some .split => 3
        | _ => 0
      ∃ packed : List Byte,
        digestImage (some c) =
            [BitVec.ofNat 8 c.symbolCount] ++ packed
              ++ (match c.segment with
                | some g => g.payload ++ [g.check]
                | none => [])
          ∧ packed.length = (c.row.length + 3) / 4
          ∧ ∀ i < packed.length, packed[i]? =
            some (BitVec.ofNat 8 (64 * code (4 * i) + 16 * code (4 * i + 1) + 4 * code (4 * i + 2) + code (4 * i + 3))))
    ∧ ∀ image : List Byte,
      let bits := (List.range (8 * image.length)).map fun k => (image.getD (k / 8) 0).getLsbD (7 - k % 8)
      crc32 image =
        ~~~ (bits.foldl (fun (reg : Word32) b => (reg <<< 1) ^^^ (if reg.getLsbD 31 = b then 0#32 else 0x04C11DB7#32))
            0xFFFFFFFF#32))
    ∧ ∀ s : State, s.running = true → ∃ t, exec .ownEdge s = .next t
    ∧ (s.trk.countValid = true → s.trk.second = 47 →
      (∀ p : Fin 8, (t.peers[p]).assentPass = none)
        ∧ t.current = s.current ∧ t.curRec = s.curRec ∧ t.store = s.store ∧ t.zone = s.zone
        ∧ (52595999 < s.trk.minute + 1 → t.next = s.next ∧ t.nextRec = s.nextRec)
        ∧ (s.trk.minute + 1 ≤ 52595999 →
          ∃ d, t.next = some d
            ∧ d.minute = s.trk.minute + 1
            ∧ d.digest = crc32 (digestImage d.coded)
            ∧ d.refState = t.trk.refState
            ∧ (d.keyState = s.key.state ∨ d.keyState = t.key.state)
            ∧ (t.key.state = .proving → s.key.proof.minute = none → t.key.proof.minute = some (s.trk.minute + 1))
            ∧ d.participant = (decide (d.refState = .locked ∨ d.refState = .holdover) && d.keyState != .fenced)
            ∧ (d.coded = none ↔
                s.win.phase = .over ∧ ∃ w, s.winRec = some w ∧ w.second = some 47 ∧ w.steady = true)
            ∧ (∀ c, d.coded = some c →
                c.symbolCount = minuteLength (s.trk.minute + 1) s.trk.plan
                  ∧ c.quality = decide (t.trk.refState = .holdover)
                  ∧ c.civil = civilFields s.straps.offset s.zone s.trk.plan (s.trk.minute + 1)
                  ∧ c.row = symbolRow c.civil c.quality c.annId c.segNo c.lastSeg c.symbolCount)
            ∧ t.nextRec =
                some
                  { minute := s.trk.minute + 1
                    outcome := .pending
                    digest := none
                    tally := 0
                    passesUsed := 0
                    role := none
                    assenting := 0
                    standing := some (if d.participant then .contender else .observer)
                    nextPass := some 1 }))
    ∧ (¬s.boundaryAhead → ¬(s.trk.countValid = true ∧ s.trk.second = 47) →
      t.next = s.next ∧ t.current = s.current ∧ t.curRec = s.curRec ∧ t.store = s.store ∧ t.lanes = s.lanes
        ∧ t.zone = s.zone
        ∧ (s.win.phase = .over → t.nextRec = s.nextRec)
        ∧ (s.win.phase ≠ .over →
          t.nextRec =
            s.nextRec.map fun r =>
              if r.outcome = .pending ∧ r.nextPass ≠ none ∧ s.windowPass = r.nextPass then
                { r with standing := some .blind }
              else r))

/-- The choice of segment at the freeze of a CODED draft. When QUIET was decided in the window of second 47 the lanes
are not asked and the draft carries no segment (R57, R58). Otherwise every RUNNING lane of the lane order is examined:
one whose cursor descriptor is malformed becomes FAULTED with LANE_FAULT; a candidate is one whose well-formed cursor
descriptor is GENERATOR-owned and claimed by it, and the first candidate in the order supplies the segment (R149, R151).
ANNOUNCE_DONE is raised when that lane reports FROZEN and this is the final segment of its final airing (R152). The
segment is a copy of the descriptor, its check byte the check of its payload, its stream the phase stream of the two,
and the announcement fields of the frame are its own (R6, R11, R58, R59); a draft without a segment carries announcement
id 0 and the two numbers 0 (R6). The lane of the last lane event is the one that ANNOUNCE_DONE was raised for, else the
last in the order that was FAULTED, else as it was (R164). That the record of second 47's window is read only when that
window has closed is the model's choice (log 28). -/
def Obligations.FreezeTakesTheFirstCandidate : Prop :=
  ∀ s : State, s.running = true → s.trk.countValid = true → s.trk.second = 47 → s.trk.minute + 1 ≤ 52595999 →
    let quiet : Prop := s.win.phase = .over ∧ ∃ w, s.winRec = some w ∧ w.second = some 47 ∧ w.quiet = true
    let order : List LaneNo :=
      match s.straps.order with
      | .fixed => [0, 1, 2, 3]
      | .rotate => s.lanes.rotation
    let expected (l : LaneNo) : Nat := ((s.laneAt l).lastSeg.map fun n => n + 1).getD 0
    let malformed (l : LaneNo) : Prop :=
      (s.laneAt l).state = .running ∧ ∃ i st, (s.laneAt l).cursor = some i ∧ (s.laneAt l).start = some st
        ∧ ((∃ l', (s.desc i).claim = some l' ∧ l' ≠ l)
          ∨ (s.desc i).annId ≠ (s.desc st).annId
          ∨ (s.desc i).segNo ≠ expected l
          ∨ (s.desc i).lastSeg ≠ (s.desc st).lastSeg
          ∨ (s.desc i).lastSeg < (s.desc i).segNo
          ∨ ¬((s.desc i).endFlag = true ↔ (s.desc i).segNo = (s.desc i).lastSeg))
    let candidate (l : LaneNo) : Prop :=
      (s.laneAt l).state = .running ∧ (s.laneAt l).start ≠ none ∧ ¬malformed l
        ∧ ∃ i, (s.laneAt l).cursor = some i ∧ (s.desc i).owner = .generator ∧ (s.desc i).claim = some l
    let done (g : SegmentPart) : Prop :=
      (s.laneAt g.lane).report = .frozen ∧ (s.desc g.index).endFlag = true
        ∧ ∃ n, (s.laneAt g.lane).repeats = some n ∧ n ≠ 0 ∧ (s.laneAt g.lane).airings + 1 = n
    ∃ t d, exec .ownEdge s = .next t ∧ t.next = some d
      ∧ (d.coded = none ∨ quiet →
        t.lanes = s.lanes ∧ (∀ c, d.coded = some c → c.segment = none)
          ∧ t.latched .laneFault = s.latched .laneFault ∧ t.latched .announceDone = s.latched .announceDone)
      ∧ ∀ c, d.coded = some c →
        (c.segment = none → c.annId = 0 ∧ c.segNo = 0 ∧ c.lastSeg = 0)
          ∧ (¬quiet →
            (∀ l, l ∈ order → malformed l → t.laneAt l = { s.laneAt l with state := .faulted })
              ∧ (∀ l, ¬(l ∈ order ∧ malformed l) → t.laneAt l = s.laneAt l)
              ∧ (t.latched .laneFault = true ↔ s.latched .laneFault = true ∨ ∃ l ∈ order, malformed l)
              ∧ (c.segment = none ↔ ∀ l ∈ order, ¬candidate l)
              ∧ (t.latched .announceDone = true ↔
                s.latched .announceDone = true ∨ ∃ g, c.segment = some g ∧ done g)
              ∧ t.lanes.rotation = s.lanes.rotation
              ∧ (∀ g, c.segment = some g → done g → t.lanes.lastEvent = some g.lane)
              ∧ ((∀ g, c.segment = some g → ¬done g) →
                ((∀ l ∈ order, ¬malformed l) → t.lanes.lastEvent = s.lanes.lastEvent)
                  ∧ ∀ before l after, order.Nodup → order = before ++ l :: after → malformed l →
                    (∀ m ∈ after, ¬malformed m) → t.lanes.lastEvent = some l)
              ∧ ∀ g, c.segment = some g →
                candidate g.lane ∧ (s.laneAt g.lane).cursor = some g.index
                  ∧ (∃ before after, order = before ++ g.lane :: after ∧ ∀ l ∈ before, ¬candidate l)
                  ∧ g.payload = (s.desc g.index).payload ∧ g.cues = (s.desc g.index).cues
                  ∧ g.check = crc8 g.payload ∧ g.stream = phaseStream g.payload g.check
                  ∧ c.annId = (s.desc g.index).annId ∧ c.segNo = (s.desc g.index).segNo
                  ∧ c.lastSeg = (s.desc g.index).lastSeg)

/-- At an own minute boundary the calendar compares the new minute number with the pending entries. An entry with that
instant becomes the past entry, the previous past entry is removed and ZONE_APPLIED is raised; without one the table does
not change (R45). -/
def Obligations.BoundaryAppliesADueZoneEntry : Prop :=
  ∀ s : State, s.zoneOk → s.pastOk → s.boundaryAhead → ∃ t, exec .ownEdge s = .next t
    ∧ ((∀ e ∈ s.zone, e.start ≠ s.trk.minute + 1) → t.zone = s.zone)
    ∧ (∀ e ∈ s.zone, e.start = s.trk.minute + 1 →
      t.pastEntry = some e
        ∧ t.latched .zoneApplied = true
        ∧ t.zone =
          match s.pastEntry with
          | some p => s.zone.filter fun x => decide (x ≠ p)
          | none => s.zone)

/-- At an own minute boundary the open minute is closed as an air record, the entry of the last second included (R131,
R134). Its symbols are those of the entries and its keyers those of the minute (R134). It has a header exactly when seconds
1 to 57 are each ZERO or ONE and the four parity groups hold an even number of ONE, and the header's fields are read from
their seconds, most significant bit first (R135). It is complete when every entry is a valid symbol and there are 59 to 61 of
them, and steady when every entry is BLANK with no strobe and no stray; with a header whose announcement id is not 0 it says
whether the segment check is good (R136), and with a draft for the minute whether every second matched it (R137). It is
entered in the log after the records of the same or a later minute and, of eight, the oldest have gone, AIR_INCOMPLETE is
raised when it is neither complete nor steady (R138), and the minute that begins is opened with no entry (R131). -/
def Obligations.BoundaryEntersTheAirRecord : Prop :=
  ∀ (s : State) (m : OpenMinute), s.boundaryAhead → s.dec.openMinute = some m → ∃ t, exec .ownEdge s = .next t ∧
    let o := observeSpan s.trk.second s.trk.lastEdge s.dec.busBase s.dec.busTrace
    let last : SecondEntry :=
      if s.trk.lastEdge + 980000 ≤ t.trk.lastEdge then
        ⟨o.symbol, o.cells, o.stray, true, s.current.map fun d => decide (o = expectedObservation d s.trk.second)⟩
      else ⟨.unclear, [], false, false, none⟩
    let entries := if m.entries.length = s.trk.second then m.entries ++ [last] else m.entries
    let symbols := entries.map SecondEntry.symbol
    let ones (first width : Nat) : Nat := ((symbols.drop first).take width).count .one
    let field (first width : Nat) : Nat :=
      ((symbols.drop first).take width).foldl (fun n y => 2 * n + if y = .one then 1 else 0) 0
    let readable : Prop :=
      (∀ k, 1 ≤ k → k ≤ 57 → symbols[k]? = some .zero ∨ symbols[k]? = some .one)
        ∧ ones 6 7 % 2 = 0 ∧ ones 13 6 % 2 = 0 ∧ ones 19 20 % 2 = 0 ∧ ones 39 19 % 2 = 0
    let cells := ((entries.drop 1).take 56).flatMap SecondEntry.cells
    let earlier := s.dec.log.filter fun x => decide (x.minute < m.number)
    ∃ r : AirRecord, t.dec.log = earlier.drop (earlier.length - 7) ++ [r]
      ∧ t.dec.openMinute = some ⟨s.trk.minute + 1, [], [], 0⟩
      ∧ r.minute = m.number ∧ r.symbols = symbols ∧ r.keyers = m.keyers
      ∧ (r.complete = true ↔
          (∀ y ∈ r.symbols, y ≠ .blank ∧ y ≠ .unclear) ∧ 59 ≤ r.symbols.length ∧ r.symbols.length ≤ 61)
      ∧ (r.steady = true ↔
          ∀ e ∈ entries, e.symbol = .blank ∧ e.stray = false ∧ ∀ x ∈ e.cells, x = .hold)
      ∧ (readable →
        r.header =
          some
            { minute := field 6 6
              hour := field 13 5
              dayOfYear := field 19 9
              yearOfCentury := field 28 7
              weekday := field 35 3
              annId := field 39 8
              segNo := field 47 5
              lastSeg := field 52 5 })
      ∧ (¬readable → r.header = none)
      ∧ ((∀ h, r.header = some h → h.annId = 0) → r.segmentCheck = none)
      ∧ (∀ h, r.header = some h → h.annId ≠ 0 →
          ∃ good, r.segmentCheck = some good
            ∧ (good = true ↔
              (∀ e ∈ (entries.drop 1).take 56, e.observed = true)
                ∧ ∃ bits, recoverStream cells = some bits
                  ∧ bits.foldl
                      (fun (reg : Byte) b =>
                        (reg <<< 1) ^^^ (if b then 1#8 else 0#8) ^^^ (if reg.getLsbD 7 then 0x07#8 else 0#8))
                      0#8 = 0#8))
      ∧ (s.current = none → r.matchesCurrent = none)
      ∧ (∀ d, s.current = some d →
          ∃ matched, r.matchesCurrent = some matched
            ∧ (matched = true ↔
              (∀ e ∈ entries, e.observed = true ∧ e.matched = some true)
                ∧ ∀ c, d.coded = some c → entries.length = c.symbolCount))
      ∧ t.latched .airIncomplete = (s.latched .airIncomplete || (!r.complete && !r.steady))

/-- The second that an own edge ends is entered in the open minute: the symbol, the cells and the stray flag seen in its
span, when the edge comes no earlier than 980 ms after the one before (R127, R128, R131), with its match against CURRENT
when the unit holds one: symbol, cells and stray flag are then those of a correct keying of the draft's row and stream (R130).
A second whose span was cut is entered as unobserved. At the same edge what the SHADOW
report of the coming window rests on is settled: the record and the draft of that second's minute, whether it was observed
and did not match, and whether its window was read and showed a beacon (R132). In a proof minute the looped second is reported
to the key controller as matched or not (R119, R133). A cue is signalled when the unit holds the minute's draft with the role
ASSENT, the segment's cue list names the second, and the second, in a proof minute the looped one, was observed and matched:
CUV and the last cue take the value, CUS goes high and CUE is raised; otherwise nothing is signalled (R140). The lines are
released at the edge and the decoder's records of bus and loop go on with that change: of each it keeps what lies in the
span of the second that begins, from 20 ms before the edge, and the level there (R125, R127). -/
def Obligations.OwnEdgeEntersTheSecondAndSignalsItsCue : Prop :=
  (∀ (d : Draft) (second : Nat),
    let x := expectedObservation d second
    x.stray = false
      ∧ (d.coded = none → x.symbol = .blank)
      ∧ (∀ c, d.coded = some c →
        x.symbol =
          match c.row[second]? with
          | some .zero => .zero
          | some .one => .one
          | some .mark => .mark
          | some .split => .split
          | none => .blank)
      ∧ (second = 0 ∨ 56 < second → x.cells = [])
      ∧ (1 ≤ second → second ≤ 56 →
        x.cells.length = 7 ∧ ∀ i < 7,
          ((∀ c, d.coded = some c → c.segment = none) → x.cells[i]? = some .hold)
            ∧ ∀ c g, d.coded = some c → c.segment = some g →
              x.cells[i]? =
                match g.stream[7 * (second - 1) + i]? with
                | some (.flip .advance _) => some .advance
                | some (.flip .retard _) => some .retard
                | _ => some .hold))
    ∧ (∀ s : State, s.running = true → ∃ t, exec .ownEdge s = .next t
      ∧ t.keying.own = linesReleased ∧ t.keying.loop = linesReleased
      ∧ (let edge := t.trk.lastEdge
        let bus := s.dec.busTrace ++ (if s.keying.own = linesReleased then [] else [⟨edge, s.keying.peer⟩])
        let loop := s.dec.loopTrace ++ (if s.keying.loop = linesReleased then [] else [⟨edge, linesReleased⟩])
        let levelBefore (base : KeyingLines) (trace : List LineSample) : KeyingLines :=
          (((trace.filter fun x => decide (x.instant < edge - 20000)).getLast?).map LineSample.lines).getD base
        t.dec.busTrace = bus.filter (fun x => decide (edge - 20000 ≤ x.instant))
          ∧ t.dec.busBase = levelBefore s.dec.busBase bus
          ∧ t.dec.loopTrace = loop.filter (fun x => decide (edge - 20000 ≤ x.instant))
          ∧ t.dec.loopBase = levelBefore s.dec.loopBase loop))
    ∧ ∀ (s : State) (m : OpenMinute), s.running = true → s.dec.openMinute = some m → m.entries.length = s.trk.second →
    let o := observeSpan s.trk.second s.trk.lastEdge s.dec.busBase s.dec.busTrace
    let looped := observeSpan s.trk.second s.trk.lastEdge s.dec.loopBase s.dec.loopTrace
    let heard := if s.key.proof.running = true then looped else o
    ∃ t, exec .ownEdge s = .next t
      ∧ (¬s.boundaryAhead → ∃ m' e,
        t.dec.openMinute = some m' ∧ m'.number = m.number ∧ m'.keyers = m.keyers ∧ m'.entries = m.entries ++ [e]
          ∧ t.dec.log = s.dec.log
          ∧ (s.trk.lastEdge + 980000 ≤ t.trk.lastEdge →
            e.observed = true ∧ e.symbol = o.symbol ∧ e.cells = o.cells ∧ e.stray = o.stray
              ∧ e.matched = s.current.map fun d => decide (o = expectedObservation d s.trk.second))
          ∧ (t.trk.lastEdge < s.trk.lastEdge + 980000 → e = ⟨.unclear, [], false, false, none⟩))
      ∧ (s.win.phase ≠ .opened → ∃ v, t.dec.evidence = some v
        ∧ (v.assent = true ↔ ∃ r, s.curRec = some r ∧ r.outcome = .concord ∧ r.role = some .assent)
        ∧ (v.coded = true ↔ ∃ d c, s.current = some d ∧ d.coded = some c)
        ∧ (v.mismatch = true ↔
            s.trk.lastEdge + 980000 ≤ t.trk.lastEdge
              ∧ ∃ d, s.current = some d ∧ o ≠ expectedObservation d s.trk.second)
        ∧ (v.beacon = true ↔ s.win.phase = .over ∧ ∃ w, s.winRec = some w ∧ w.hold ≠ 0))
      ∧ (s.key.proof.running = true → ¬s.boundaryAhead →
        let good := s.trk.lastEdge + 980000 ≤ t.trk.lastEdge
          ∧ ∃ d, s.current = some d ∧ looped = expectedObservation d s.trk.second
        (good → t.key.proof.matched = s.key.proof.matched + 1 ∧ t.key.proof.missed = s.key.proof.missed)
          ∧ (¬good → t.key.proof.matched = s.key.proof.matched ∧ t.key.proof.missed = true))
      ∧ (let cued (v : Nat) : Prop :=
          (∃ r, s.curRec = some r ∧ r.outcome = .concord ∧ r.role = some .assent)
            ∧ (∃ d c g, s.current = some d ∧ d.coded = some c ∧ c.segment = some g ∧ ⟨s.trk.second, v⟩ ∈ g.cues
              ∧ (∀ x ∈ g.cues, x.second = s.trk.second → x.value = v)
              ∧ heard = expectedObservation d s.trk.second)
            ∧ s.trk.lastEdge + 980000 ≤ t.trk.lastEdge
        (∀ v, cued v → t.dec.lastCue = BitVec.ofNat 4 v ∧ t.dec.cus = true ∧ t.latched .cue = true)
          ∧ ((∀ r, s.curRec = some r → r.outcome = .concord → r.role ≠ some .assent)
              ∨ (∀ d c g, s.current = some d → d.coded = some c → c.segment = some g →
                ∀ x ∈ g.cues, x.second ≠ s.trk.second)
              ∨ t.trk.lastEdge < s.trk.lastEdge + 980000
              ∨ (∀ d, s.current = some d → heard ≠ expectedObservation d s.trk.second) →
            t.dec.lastCue = s.dec.lastCue ∧ t.dec.cus = s.dec.cus ∧ t.latched .cue = s.latched .cue))

/-- A window still open at an own edge is cut: it is closed as a dead window (R71, R74). Its record holds its second number,
DEAD and the neutral outcomes (R88), every row of the peer table is not present and not holding with one more absent window
(R79), the askew run is 0 (R75), the beacon is absent (R107), the unsupported count (log 14) and the listening count are 0
(R121), and CCA and CCO are released. -/
def Obligations.OwnEdgeCutsAnOpenWindow : Prop :=
  ∀ s : State, s.running = true → s.win.phase = .opened → ∃ t, exec .ownEdge s = .next t
    ∧ t.winRec =
        some
          { second := s.windowNumber
            alignment := .dead
            syncDrive := s.win.syncDrive
            offset := none
            present := 0
            hold := 0
            shadow := .none
            steady := false
            quiet := false
            yieldSet := false
            bidding := false }
    ∧ (∀ p : Fin 8,
        (t.peers[p]).present = false ∧ (t.peers[p]).holding = false
          ∧ (t.peers[p]).absentRun = min 255 ((s.peers[p]).absentRun + 1) ∧ (t.peers[p]).self = (s.peers[p]).self)
    ∧ t.key.askewRun = 0 ∧ t.key.beaconAbsent = true ∧ t.key.unsupported = 0 ∧ t.key.listening = 0
    ∧ t.win.pullCca = false ∧ t.win.driveCco = false ∧ t.win.syncDriving = false

/-- What an own edge does to the key state. A pending fence makes the unit FENCED with its drivers disabled (R115); else a
pending take makes it HOLDING with its drivers enabled, and the pattern goes on the bus when the keying conditions hold (R110,
R125); else, at an own minute boundary, a pending release makes a YIELDING unit STANDBY (R112), and a YIELDING unit whose
last-second window was not opened, or began with it YIELDING and gave its yield no BIDDING reading, becomes HOLDING (R112, log
13), while a yield that began after that window's start, or after the window's own yield was resolved in it, stays to be
resolved in the next minute (R111). At the boundary that ends the proof minute the proof is judged, its last second included
(R120). The designated proof minute begins at the boundary at which its draft becomes CURRENT, and every own edge in it reads
the reference state (R119); that the edge that begins it reads it and the edge that ends it does not is the model's choice
(log 25). Every other own edge leaves the key state and the drivers as they are, but for what O21 says of a DORMANT unit at a
boundary (R121), and a unit that is then the holder has been it for one edge more (R115). After every own edge the pattern
goes to the local loop in a proof minute, else to the bus when the drivers are enabled and the keying conditions hold, and
else to no output (R105, R119, R125). -/
def Obligations.KeyStateAtTheOwnEdge : Prop :=
  ∀ s : State, s.running = true → ∃ t, exec .ownEdge s = .next t
    ∧ (s.key.pendingFence = true →
      t.key.state = .fenced ∧ t.key.drivers = false ∧ t.key.pendingFence = false ∧ t.key.pendingRelease = false
        ∧ t.keying.own = linesReleased ∧ t.keying.out ≠ .bus ∧ t.latched .fenced = true)
    ∧ (s.key.pendingFence = false → s.key.pendingTake ≠ none →
      t.key.state = .holding ∧ t.key.drivers = true ∧ t.key.pendingTake = none ∧ t.latched .keyTaken = true
        ∧ t.keying.out = if t.keyingConditions then .bus else .none)
    ∧ (s.key.pendingFence = false → s.key.pendingTake = none → s.boundaryAhead → s.key.state = .yielding →
      (s.key.pendingRelease = true →
        t.key.state = .standby ∧ t.key.drivers = false ∧ t.key.pendingRelease = false
          ∧ t.keying.own = linesReleased ∧ t.keying.out ≠ .bus ∧ t.latched .keyReleased = true)
        ∧ (s.key.pendingRelease = false →
          (s.win.atStart = none
              ∨ (s.win.yieldResolved = false ∧ ∃ a, s.win.atStart = some a ∧ a.key = .yielding) →
            t.key.state = .holding ∧ t.key.drivers = s.key.drivers ∧ t.latched .yieldCancelled = true)
            ∧ (∀ a, s.win.atStart = some a → a.key ≠ .yielding ∨ s.win.yieldResolved = true →
              t.key.state = .yielding ∧ t.key.drivers = s.key.drivers
                ∧ t.latched .yieldCancelled = s.latched .yieldCancelled)))
    ∧ (∀ m, s.boundaryAhead → s.key.state = .proving → s.key.proof.running = true → s.key.pendingFence = false →
      s.key.pendingTake = none → s.dec.openMinute = some m → m.entries.length = s.trk.second →
      let looped := observeSpan s.trk.second s.trk.lastEdge s.dec.loopBase s.dec.loopTrace
      let good := (∃ r, s.curRec = some r ∧ r.outcome = .concord ∧ r.role = some .assent)
        ∧ s.key.proof.missed = false ∧ s.key.proof.refHeld = true
        ∧ s.trk.lastEdge + 980000 ≤ t.trk.lastEdge
        ∧ ∃ d, s.current = some d ∧ looped = expectedObservation d s.trk.second
      (good → t.key.state = .standby ∧ t.latched .proven = true)
        ∧ (¬good → t.key.state = .fenced ∧ t.latched .provingFailed = true)
        ∧ t.key.proof.minute = none ∧ t.key.proof.running = false)
    ∧ (s.key.proof.running = true → ¬s.boundaryAhead →
      t.key.proof.running = true
        ∧ t.key.proof.refHeld = (s.key.referenceRead t.trk.refState).proof.refHeld)
    ∧ (s.boundaryAhead → s.key.proof.running = false → s.key.proof.minute ≠ none →
      t.key.proof.running = true
        ∧ t.key.proof.refHeld = decide (s.key.proof.refHeld = true
            ∧ (t.trk.refState = .locked ∨ t.trk.refState = .holdover)))
    ∧ (s.key.pendingFence = false → s.key.pendingTake = none →
      ¬s.boundaryAhead ∨ s.key.state = .holding ∨ s.key.state = .standby ∨ s.key.state = .fenced
        ∨ (s.key.state = .proving ∧ s.key.proof.running = false)
        ∨ (s.key.state = .dormant ∧ s.win.phase = .opened) →
      t.key.state = s.key.state ∧ t.key.drivers = s.key.drivers)
    ∧ (s.key.pendingFence = false → s.key.pendingTake = none → s.key.state = .dormant ∨ s.key.state = .proving →
      t.key.drivers = s.key.drivers)
    ∧ t.key.heldEdges =
        (if s.key.pendingFence = true then 0
        else if s.key.pendingTake ≠ none then 1
        else if t.key.state = .holding ∨ t.key.state = .yielding then min 2 (s.key.heldEdges + 1)
        else 0)
    ∧ (let proves := t.key.proof.running = true ∧ t.key.state = .proving
      let keys := t.key.drivers = true
        ∧ (∃ d c, t.current = some d ∧ d.coded = some c)
        ∧ ∃ r, t.curRec = some r ∧ r.outcome = .concord ∧ r.role = some .assent
      (t.keying.out = .loop ↔ proves) ∧ (t.keying.out = .bus ↔ ¬proves ∧ keys))

/-- At an own minute boundary the bid bar is cleared (R114), and the listening count advances when the minute that ends
began at a boundary and no dead window closed in it; a DORMANT unit whose count is then 2 becomes STANDBY if its reference
is LOCKED, and stays DORMANT otherwise (R121). At another own edge a DORMANT unit and the bid bar stay as they are. -/
def Obligations.BoundaryClearsTheBidBarAndCountsListening : Prop :=
  ∀ s : State, s.running = true → s.win.phase ≠ .opened → ∃ t, exec .ownEdge s = .next t
    ∧ (s.boundaryAhead →
      t.key.bidBar = false ∧ t.key.listenOpen = true
        ∧ t.key.listening = (if s.key.listenOpen then min 2 (s.key.listening + 1) else s.key.listening)
        ∧ (s.key.state = .dormant → s.key.pendingFence = false → s.key.pendingTake = none →
          t.key.state = if t.key.listening = 2 ∧ t.trk.refState = .locked then .standby else .dormant))
    ∧ (¬s.boundaryAhead →
      t.key.bidBar = s.key.bidBar ∧ t.key.listening = s.key.listening ∧ t.key.listenOpen = s.key.listenOpen
        ∧ (s.key.state = .dormant → s.key.pendingFence = false → s.key.pendingTake = none →
          t.key.state = .dormant))

/-- What an own minute boundary does to the lanes. The countdown of every WAITING lane is lowered, and a lane whose countdown
reaches 0 becomes RUNNING (R157); that this comes before the credit is the model's order (log 11). The record just closed
gives credit when it is complete, its segment check is good, its header names an announcement id other than 0, and a lane is
matching: the lane that the retired draft's segment names if it is, else the lowest-numbered (R153). Without credit nothing
else changes. The credited lane's cursor descriptor counts one airing more, and under ROTATE the lane goes to the back of the
order (R149, R154). With the end flag clear, its number becomes the last segment credited, the countdown ends, and the lane
arrives along the link (R150, R154). With the end flag set an airing is done (R155): while repeats remain the cursor returns
to the start and the lane waits out its spacing, and when the airings reach the repeats the write-back returns every
descriptor that the lane claims, raises ANNOUNCE_DONE for a lane that reports AIRED, and the lane arrives along the link at
its next announcement (R150, R155, R156). -/
def Obligations.BoundaryCreditsALane : Prop :=
  ∀ s : State, s.boundaryAhead → ∃ t, exec .ownEdge s = .next t ∧
    let counted (l : LaneNo) : Lane :=
      let x := s.laneAt l
      if x.state = .waiting then
        { x with countdown := x.countdown - 1, state := if x.countdown ≤ 1 then .running else .waiting }
      else x
    let unchanged : Prop :=
      (∀ l, t.laneAt l = counted l) ∧ t.store = s.store ∧ t.lanes.rotation = s.lanes.rotation
        ∧ t.lanes.lastEvent = s.lanes.lastEvent
    (s.dec.openMinute = none → unchanged)
      ∧ (s.dec.openMinute ≠ none → ∃ r, t.dec.log.getLast? = some r ∧
        let matching (l : LaneNo) : Prop :=
          (s.laneAt l).state ≠ .faulted ∧ ∃ i h, (s.laneAt l).cursor = some i ∧ r.header = some h
            ∧ (s.desc i).owner = .generator ∧ (s.desc i).claim = some l
            ∧ (s.desc i).annId = h.annId ∧ (s.desc i).segNo = h.segNo
        let gives : Prop :=
          r.complete = true ∧ r.segmentCheck = some true ∧ ∃ h, r.header = some h ∧ h.annId ≠ 0
        let named (l : LaneNo) : Prop :=
          ∃ d c g, s.current = some d ∧ d.coded = some c ∧ c.segment = some g ∧ g.lane = l
        let credited (l : LaneNo) : Prop :=
          gives ∧ matching l
            ∧ (named l ∨ ((∀ l', named l' → ¬matching l') ∧ ∀ l', matching l' → l.val ≤ l'.val))
        ((∀ l, ¬credited l) → unchanged)
          ∧ ∀ (l : LaneNo) (i : DescIndex), credited l → (s.laneAt l).cursor = some i →
            let d := s.desc i
            let x := counted l
            let aired (j : DescIndex) : Descriptor :=
              if j = i then { d with aired := min 65535 (d.aired + 1) } else s.desc j
            let done := if x.repeats = some 0 then min 15 (x.airings + 1) else x.airings + 1
            (∀ m, m ≠ l → t.laneAt m = counted m)
              ∧ t.lanes.rotation =
                  (match s.straps.order with
                  | .fixed => s.lanes.rotation
                  | .rotate => (s.lanes.rotation.filter fun m => decide (m ≠ l)) ++ [l])
              ∧ (d.endFlag = false →
                t.arrivesByCredit l { x with lastSeg := some d.segNo, countdown := 0, cursor := d.link } aired
                  ∧ t.latched .announceDone = s.latched .announceDone)
              ∧ (d.endFlag = true → x.repeats = some 0 ∨ (∃ n, x.repeats = some n ∧ done < n) →
                t.laneAt l =
                    { x with
                      airings := done
                      cursor := x.start
                      lastSeg := none
                      countdown := x.spacing
                      state := if x.state = .stopped then .stopped else if x.spacing = 0 then .running else .waiting }
                  ∧ (∀ j, t.desc j = aired j) ∧ t.lanes.lastEvent = s.lanes.lastEvent
                  ∧ t.latched .announceDone = s.latched .announceDone)
              ∧ (∀ n, d.endFlag = true → x.repeats = some n → n ≠ 0 → done = n →
                let returned (j : DescIndex) : Descriptor :=
                  if (s.desc j).claim = some l then { aired j with owner := .controller, claim := none } else s.desc j
                t.arrivesByCredit l
                    { x with
                      cursor := d.link
                      start := d.link
                      airings := 0
                      repeats := none
                      lastSeg := none
                      countdown := 0 }
                    returned
                  ∧ (x.report = .aired → t.latched .announceDone = true ∧ t.lanes.lastEvent = some l)
                  ∧ (x.report = .frozen → t.latched .announceDone = s.latched .announceDone)))

/-- A realign, due 5 ms after a boundary that found it armed: the latest REFP edge that arrived no later than that becomes the
anchor, its reference time the count, which the second in progress carries from then on; the tracker is LOCKED with the bad
run, the holdover count and the step-confirmation count at 0 and the flag clear, and REALIGNED is raised (R30). The zone table
is settled, with ZONE_APPLIED when another entry becomes past (R46), the decoder opens the minute of the new count with every
second so far unobserved (R131), and CURRENT is kept when the minute numbers are equal and discarded with its record when not
(R66), after which nothing is driven (R106). A kept CURRENT goes on from the new second number (R66, R124): the tick in
progress takes the pattern of that second on the selected output. The decoder has every change of the lines (R127). Four
things are the model's choice: the good run is 0 too (log 22), the lines change at the instant of the realign (log 15), what
the coming window's SHADOW report rests on stays as the boundary settled it (log 32), and the seconds so far have no loop
entries (log 33). -/
def Obligations.RealignMovesTheCountAndTheDraft : Prop :=
  ∀ (s : State) (e : Instant) (u : UtcTime), s.running = true → s.trk.realignDue = true → s.trk.armed = true →
    s.trk.refState = .stepping →
    ((∃ o, s.trk.openMsg = some o ∧ o.edge = e ∧ e ≤ s.trk.lastEdge + 5000
        ∧ ∃ p v, s.trk.prevRef = some p ∧ p.time = some v ∧ u = v.successor p.plan)
      ∨ ((∀ o, s.trk.openMsg = some o → s.trk.lastEdge + 5000 < o.edge)
        ∧ ∃ p, s.trk.prevRef = some p ∧ p.instant = e ∧ p.time = some u)) →
    ∃ t, exec .realign s = .next t
      ∧ (⟨t.trk.minute, t.trk.second⟩ : CountTime) = u.toCount ∧ t.trk.anchor = e
      ∧ t.trk.refState = .locked ∧ t.trk.badRun = 0 ∧ t.trk.goodRun = 0 ∧ t.trk.holdover = 0 ∧ t.trk.stepConf = 0
      ∧ t.trk.armed = false ∧ t.trk.realignDue = false ∧ t.trk.countValid = s.trk.countValid
      ∧ t.trk.marks =
          (match s.trk.marks with
          | [] => []
          | k :: rest => { k with time := some u.toCount } :: rest)
      ∧ t.latched .realigned = true
      ∧ t.zone = settledTable t.trk.minute s.zone
      ∧ (s.zoneOk → s.settlesTo t.trk.minute s.pastEntry t)
      ∧ t.dec.openMinute =
          some ⟨t.trk.minute, List.replicate (t.trk.second + 1) ⟨.unclear, [], false, false, none⟩, [], 0⟩
      ∧ (∀ d, s.current = some d →
        if d.minute = t.trk.minute then
          let pattern := patternLines (some d) t.trk.second (s.keying.nextTick - 1)
          t.current = some d ∧ t.curRec = s.curRec
            ∧ t.keying =
                (if s.keying.nextTick = 0 then s.keying
                else
                  { s.keying with
                    own := if s.keying.out = .bus then pattern else s.keying.own
                    loop := if s.keying.out = .loop then pattern else s.keying.loop })
        else t.current = none ∧ t.curRec = none ∧ t.keying.own = linesReleased ∧ t.keying.loop = linesReleased
          ∧ t.keying.out ≠ .bus)
      ∧ (s.current = none → t.current = none ∧ t.curRec = s.curRec ∧ t.keying = s.keying)
      ∧ t.trk.lastEdge = s.trk.lastEdge
      ∧ t.dec.busTrace =
          s.dec.busTrace
            ++ (if t.keying.own = s.keying.own then []
              else
                [⟨s.trk.lastEdge + 5000, t.keying.own.kyl || s.keying.peer.kyl, t.keying.own.kya || s.keying.peer.kya,
                  t.keying.own.kyr || s.keying.peer.kyr⟩])
      ∧ t.dec.loopTrace =
          s.dec.loopTrace
            ++ (if t.keying.loop = s.keying.loop then [] else [⟨s.trk.lastEdge + 5000, t.keying.loop⟩])
      ∧ t.dec.evidence = s.dec.evidence
      ∧ t.next = s.next ∧ t.nextRec = s.nextRec ∧ t.key = s.key ∧ t.store = s.store ∧ t.lanes = s.lanes
      ∧ t.peers = s.peers ∧ t.win = s.win ∧ t.winRec = s.winRec ∧ t.link = s.link ∧ t.straps = s.straps

/-! ### Keying and the keying bus (chapters 1 and 8) -/

/-- At the start of a tick, 50 ms times its number after the own edge (R1), the pattern of the second in progress of the
CURRENT draft goes onto the selected output and nowhere else (R124, R125); 10 ms into a tick the strobe lines are released
(R2). The decoder has each change of the bus and of the loop at its instant, the bus as this unit and the others together
drive it (R127). -/
def Obligations.TicksPutThePatternOnTheSelectedOutput : Prop :=
  ∀ s : State, s.running = true →
    let becomes (instant : Instant) (own loop : KeyingLines) (nextTick : Nat) : State :=
      { s with
        keying := { s.keying with nextTick := nextTick, own := own, loop := loop }
        dec :=
          { s.dec with
            busTrace :=
              s.dec.busTrace
                ++ (if own = s.keying.own then []
                  else
                    [⟨instant, own.kyl || s.keying.peer.kyl, own.kya || s.keying.peer.kya,
                      own.kyr || s.keying.peer.kyr⟩])
            loopTrace := s.dec.loopTrace ++ (if loop = s.keying.loop then [] else [⟨instant, loop⟩]) } }
    (s.keying.nextTick < 20 →
      let pattern := patternLines s.current s.trk.second s.keying.nextTick
      exec .tickStart s =
        .next
          (becomes (s.trk.lastEdge + 50000 * s.keying.nextTick) (if s.keying.out = .bus then pattern else s.keying.own)
            (if s.keying.out = .loop then pattern else s.keying.loop) (s.keying.nextTick + 1)))
      ∧ ∀ n, s.keying.nextTick = n + 1 →
        exec .strobeEnd s =
          .next
            (becomes (s.trk.lastEdge + 50000 * n + 10000) ⟨s.keying.own.kyl, false, false⟩
              ⟨s.keying.loop.kyl, false, false⟩ (n + 1))

/-- The pattern of a tick. KYL follows Table 1.1 (R3); a strobe stands in a phase cell alone, KYA for an ADVANCE flip and KYR
for a RETARD flip of the draft's stream (R9); beyond the row, in a steady minute and without a draft nothing is asserted
(R18, R19); at most one strobe is given in a tick, none beside a dip, and tick 12 is empty (R2). -/
def Obligations.PatternOfATick : Prop :=
  ∀ (d : Draft) (second tick : Nat), tick < 20 →
    let lines := patternLines (some d) second tick
    patternLines none second tick = linesReleased
      ∧ (d.coded = none → lines = linesReleased)
      ∧ (∀ c, d.coded = some c → c.row.length ≤ second → lines = linesReleased)
      ∧ (∀ c sym, d.coded = some c → c.row[second]? = some sym →
        (lines.kyl = true ↔
          match sym with
          | .zero => tick ≤ 2
          | .one => tick ≤ 5
          | .mark => tick ≤ 11
          | .split => tick ≤ 2 ∨ (6 ≤ tick ∧ tick ≤ 8))
          ∧ (∀ dir, (if dir = .advance then lines.kya else lines.kyr) = true ↔
            ∃ g kind, c.segment = some g ∧ 1 ≤ second ∧ second ≤ 56 ∧ 13 ≤ tick
              ∧ g.stream[7 * (second - 1) + (tick - 13)]? = some (.flip dir kind)))
      ∧ (lines.kya = true → lines.kyr = false)
      ∧ (lines.kya = true ∨ lines.kyr = true → lines.kyl = false)
      ∧ (tick = 12 → lines = linesReleased)

/-- The row of a draft of 59, 60 or 61 symbols: MARK in second 0, ZERO or ONE in seconds 1 to 57, SPLIT in the last second
and ZERO between (R7, R8), and an even number of ONE symbols in each of the four parity groups (R5). The one-bit fields stand
in seconds 1 to 5, and every other field's value in the seconds of Table 1.2, most significant bit in the lowest-numbered
second, a bit 1 as ONE and a bit 0 as ZERO (R4, R6). -/
def Obligations.SymbolRowForm : Prop :=
  ∀ (c : CivilFields) (quality : Bool) (annId segNo lastSeg n : Nat), 59 ≤ n → n ≤ 61 →
    let row := symbolRow c quality annId segNo lastSeg n
    row.length = n ∧ row[0]? = some .mark ∧ row[n - 1]? = some .split
      ∧ (∀ k, 1 ≤ k → k ≤ 57 → row[k]? = some .zero ∨ row[k]? = some .one)
      ∧ (∀ k, 58 ≤ k → k < n - 1 → row[k]? = some .zero)
      ∧ ((row.drop 6).take 7).count .one % 2 = 0 ∧ ((row.drop 13).take 6).count .one % 2 = 0
      ∧ ((row.drop 19).take 20).count .one % 2 = 0 ∧ ((row.drop 39).take 19).count .one % 2 = 0
      ∧ (∀ f ∈ [(1, c.zone == .summer), (2, c.zoneWarn), (3, c.leapWarn), (4, c.leapKind), (5, quality)],
          row[f.1]? = some (if f.2 = true then .one else .zero))
      ∧ ∀ f ∈ [(6, 6, c.minute), (13, 5, c.hour), (19, 9, c.dayOfYear), (28, 7, c.yearOfCentury), (35, 3, c.weekday),
            (39, 8, annId), (47, 5, segNo), (52, 5, lastSeg)],
          ∀ k < f.2.1, row[f.1 + k]? = some (if f.2.2.testBit (f.2.1 - 1 - k) = true then .one else .zero)

/-- The coding of a phase stream and its recovery. The stream's bits are those of the payload and the check byte, each byte's
most significant first (R10). A 1 bit is a normal flip opposite to the most recent flip, RETARD standing before cell 0 (R12).
A BREACH repeats the most recent flip and ends a run of five 0 bits that begins right after a flip or at cell 0; the other
four cells are holds when the number of normal flips since the breach before is odd, and a FILL, opposite to the most recent
flip, and three holds when it is even, and a FILL stands nowhere else (R13). No five cells in a row are holds, and between
two consecutive breaches, which have opposite directions, there is an odd number of normal flips, FILLs included; the first
breach is an ADVANCE (R14). The stream recovered from the strobes is the segment that the stream carries (R12, R13, R16), and
its segment check is good when the check byte is the check of the payload (R11, R16). The check of any bytes is the 8-bit
cyclic check with generator 107h, most significant bit first, initial value 0 and no final inversion (R11). -/
def Obligations.PhaseStreamIsRecovered : Prop :=
  (∀ bytes : List Byte,
    let bits := (List.range (8 * bytes.length)).map fun k => (bytes.getD (k / 8) 0).getLsbD (7 - k % 8)
    crc8 bytes =
      bits.foldl (fun (reg : Byte) b => (reg <<< 1) ^^^ (if reg.getLsbD 7 = b then 0#8 else 0x07#8)) 0#8)
    ∧ ∀ (payload : List Byte) (check : Byte),
    let x := phaseStream payload check
    let bits := segmentBits payload check
    let cells := x.map PhaseCell.reading
    let latest (i : Nat) : Direction :=
      (x.take i).foldl
        (fun d c =>
          match c with
          | .flip e _ => e
          | .hold => d)
        .retard
    let odd (i : Nat) : Bool :=
      (x.take i).foldl
        (fun o c =>
          match c with
          | .flip _ .breach => false
          | .flip _ _ => !o
          | .hold => o)
        false
    let breach (i : Nat) (d : Direction) : Prop := x[i]? = some (.flip d .breach)
    x.length = 8 * (payload.length + 1)
      ∧ (∀ k, bits[k]? = ((payload ++ [check])[k / 8]?).map fun b => b.getLsbD (7 - k % 8))
      ∧ (∀ i d, x[i]? = some (.flip d .normal) ↔ bits[i]? = some true ∧ d = (latest i).opposite)
      ∧ (∀ i d, breach i d → 4 ≤ i
        ∧ d = latest i
        ∧ (∀ j < 5, bits[i - j]? = some false)
        ∧ (i = 4 ∨ x[i - 5]? ≠ some .hold)
        ∧ x[i - 4]? =
            (if odd (i - 4) then some .hold else some (.flip (latest (i - 4)).opposite .fill))
        ∧ x[i - 3]? = some .hold ∧ x[i - 2]? = some .hold ∧ x[i - 1]? = some .hold)
      ∧ (∀ i d, x[i]? = some (.flip d .fill) → breach (i + 4) d)
      ∧ (∀ i, ¬∀ j < 5, x[i + j]? = some .hold)
      ∧ (∀ i d, breach i d →
        odd i = true
          ∧ ((∀ j e, j < i → ¬breach j e) → d = .advance)
          ∧ ∀ j e, j < i → breach j e → (∀ k f, j < k → k < i → ¬breach k f) → d = e.opposite)
      ∧ recoverStream cells = some bits
      ∧ (check = crc8 payload → segmentCheckGood cells = true)

/-- How the decoder classes the dips of a second whose own edge is `edge` (R128, Table 8.1): no dip is BLANK; one dip that
begins within 10 ms of the edge is ZERO, ONE or MARK when it lasts 150, 300 or 600 ms, within 20 ms; two are SPLIT when
both last 150 ms so and the second begins 300 ms after the edge, within 20 ms; a dip of another length or start, two dips
that are not SPLIT and three or more are UNCLEAR.
What a second's span shows (R129): in seconds 1 to 56 each of the seven cells reads ADVANCE for one strobe on KYA alone, RETARD
for one on KYR alone, HOLD for none and DOUBLE otherwise, of the strobes whose leading edge lies within 15 ms of the start of
the cell's tick; other seconds have no cells. A strobe is an assertion of 5 to 20 ms (R127). The stray flag is set exactly when
an assertion is longer than 20 ms or a strobe belongs to no cell. An assertion is one of the longest stretches of the second's
span, from 20 ms before the edge to 980 ms after it, in which the line is asserted, and for the dips an assertion of KYL below
5 ms is not seen and a release below 5 ms is bridged (R127). Two things are the model's: that the lines are clipped to the span
before these lengths are measured (log 8), and that where it matters which of the two is done first it is left free (log 7). -/
def Obligations.DipsAndStrobesAreClassed : Prop :=
  (∀ edge a b c d : Nat, a ≤ b → b ≤ c → c ≤ d →
    let onEdge := a ≤ edge + 10000 ∧ edge ≤ a + 10000
    let lasts (x y nominal : Nat) : Prop := y - x ≤ nominal + 20000 ∧ nominal ≤ y - x + 20000
    classifyDips edge [] = .blank
      ∧ (onEdge → lasts a b 150000 → classifyDips edge [(a, b)] = .zero)
      ∧ (onEdge → lasts a b 300000 → classifyDips edge [(a, b)] = .one)
      ∧ (onEdge → lasts a b 600000 → classifyDips edge [(a, b)] = .mark)
      ∧ (¬onEdge → classifyDips edge [(a, b)] = .unclear)
      ∧ (¬lasts a b 150000 → ¬lasts a b 300000 → ¬lasts a b 600000 → classifyDips edge [(a, b)] = .unclear)
      ∧ (let split := onEdge ∧ lasts a b 150000 ∧ lasts c d 150000 ∧ c ≤ edge + 320000 ∧ edge + 300000 ≤ c + 20000
        (split → classifyDips edge [(a, b), (c, d)] = .split)
          ∧ (¬split → classifyDips edge [(a, b), (c, d)] = .unclear))
      ∧ ∀ dips : List (Nat × Nat), 3 ≤ dips.length → classifyDips edge dips = .unclear)
    ∧ (∀ (line : KeyingLines → Bool) (edge : Nat) (base : KeyingLines) (trace : List LineSample),
      trace.Pairwise (fun x y => x.instant ≤ y.instant) →
      let asserted := assertedIntervals line (edge - 20000) (edge + 980000) base trace
      let level (t : Nat) : Bool :=
        line ((((trace.filter fun x => decide (x.instant ≤ t)).getLast?).map LineSample.lines).getD base)
      (∀ t, edge - 20000 ≤ t → t < edge + 980000 → (level t = true ↔ ∃ i ∈ asserted, i.1 ≤ t ∧ t < i.2))
        ∧ (∀ i ∈ asserted, edge - 20000 ≤ i.1 ∧ i.1 < i.2 ∧ i.2 ≤ edge + 980000)
        ∧ asserted.Pairwise (fun i j => i.2 < j.1))
    ∧ (∀ asserted : List (Nat × Nat), (∀ i ∈ asserted, i.1 < i.2) → asserted.Pairwise (fun i j => i.2 < j.1) →
      let long (l : List (Nat × Nat)) : List (Nat × Nat) := l.filter fun i => decide (i.1 + 5000 ≤ i.2)
      let bridged (l m : List (Nat × Nat)) : Prop :=
        (∀ i ∈ m, i.1 < i.2) ∧ m.Pairwise (fun i j => i.2 + 5000 ≤ j.1)
          ∧ ∀ t, (∃ i ∈ m, i.1 ≤ t ∧ t < i.2) ↔
              (∃ i ∈ l, i.1 ≤ t ∧ t < i.2) ∨ ∃ i ∈ l, ∃ j ∈ l, i.2 ≤ t ∧ t < j.1 ∧ j.1 < i.2 + 5000
      ∃ m n, bridged asserted m ∧ bridged (long asserted) n
        ∧ (seenDips asserted = long m ∨ seenDips asserted = n))
    ∧ ∀ (second edge : Nat) (base : KeyingLines) (trace : List LineSample),
      let o := observeSpan second edge base trace
      let asserted (line : KeyingLines → Bool) : List (Nat × Nat) :=
        assertedIntervals line (edge - 20000) (edge + 980000) base trace
      let strobes (line : KeyingLines → Bool) : List Nat :=
        ((asserted line).filter fun i => decide (i.1 + 5000 ≤ i.2 ∧ i.2 ≤ i.1 + 20000)).map Prod.fst
      let inCell (i t : Nat) : Prop := t ≤ edge + 50000 * (13 + i) + 15000 ∧ edge + 50000 * (13 + i) ≤ t + 15000
      let count (line : KeyingLines → Bool) (i : Nat) : Nat :=
        ((strobes line).filter fun t =>
          decide (t ≤ edge + 50000 * (13 + i) + 15000 ∧ edge + 50000 * (13 + i) ≤ t + 15000)).length
      o.symbol = classifyDips edge (seenDips (asserted KeyingLines.kyl))
        ∧ (second = 0 ∨ 56 < second → o.cells = [])
        ∧ (1 ≤ second → second ≤ 56 →
          o.cells.length = 7 ∧ ∀ i < 7,
            let a := count KeyingLines.kya i
            let r := count KeyingLines.kyr i
            (o.cells[i]? = some .hold ↔ a = 0 ∧ r = 0)
              ∧ (o.cells[i]? = some .advance ↔ a = 1 ∧ r = 0)
              ∧ (o.cells[i]? = some .retard ↔ a = 0 ∧ r = 1)
              ∧ (o.cells[i]? = some .double ↔ 1 < a ∨ 1 < r ∨ (1 ≤ a ∧ 1 ≤ r)))
        ∧ (o.stray = true ↔
          (∃ i ∈ asserted KeyingLines.kya ++ asserted KeyingLines.kyr, i.1 + 20000 < i.2)
            ∨ ∃ t ∈ strobes KeyingLines.kya ++ strobes KeyingLines.kyr,
              second = 0 ∨ 56 < second ∨ ∀ i < 7, ¬inCell i t)

/-- The calendar's answer: the local minute, hour and weekday are those of the UTC minute plus the local offset, the day of
year and year of century those of its day, also in the hours before 2000 and after 2099 that a local time can reach, and the
warnings as R42 and R43 window them (R37, R40 to R43). The zone state is the
new state of the latest entry at or before the minute, in a table in order of instant, and STANDARD without one (R39). -/
def Obligations.CivilFieldsOfAMinute : Prop :=
  ∀ (offset : Int) (table : List ZoneEntry) (plan : LeapPlan) (t : Nat), -48 ≤ offset → offset ≤ 56 →
    let f := civilFields offset table plan t
    let summer : Int := match f.zone with
      | .standard => 0
      | .summer => 60
    let l : Int := t + 15 * offset + summer
    ((∀ e ∈ table, t < e.start) → f.zone = .standard)
      ∧ (table.Pairwise (fun a b => a.start < b.start) →
          ∀ e ∈ table, e.start ≤ t → (∀ e' ∈ table, e'.start ≤ t → e'.start ≤ e.start) → f.zone = e.state)
      ∧ f.minute < 60 ∧ f.hour < 24 ∧ ((60 * f.hour + f.minute : Nat) : Int) = l % 1440
      ∧ 1 ≤ f.weekday ∧ f.weekday ≤ 7 ∧ ((f.weekday : Nat) : Int) % 7 = (l / 1440 + 6) % 7
      ∧ 1 ≤ f.dayOfYear ∧ f.dayOfYear ≤ 366 ∧ f.yearOfCentury ≤ 99
      ∧ (∀ (y doy : Nat), y ≤ 99 → 1 ≤ doy → doy ≤ (if y % 4 = 0 then 366 else 365) →
          l / 1440 = (((List.range y).map fun y => if y % 4 = 0 then 366 else 365).sum + (doy - 1) : Nat) →
          f.dayOfYear = doy ∧ f.yearOfCentury = y)
      ∧ (l / 1440 = -1 → f.dayOfYear = 365 ∧ f.yearOfCentury = 99)
      ∧ (l / 1440 = 36525 → f.dayOfYear = 1 ∧ f.yearOfCentury = 0)
      ∧ (f.zoneWarn = true ↔ ∃ e ∈ table, t + 1 ≤ e.start ∧ e.start ≤ t + 60)
      ∧ (f.leapWarn = true ↔ 1380 ≤ t % 1440 ∧ plan ≠ .none)
      ∧ (f.leapKind = true ↔ 1380 ≤ t % 1440 ∧ plan = .delete)

/-- At mid-tick a holder that reads KYL asserted where the pattern it drives has KYL released has a collision (R113); in
every other case the readback changes nothing. A change of the keying bus by other units is kept as the level they drive and,
while the unit runs, recorded with its instant for the decoder (R127); the end of a CUS pulse returns CUS low and keeps CUV
(R140). -/
def Obligations.BusReadbackAndCuePulse : Prop :=
  (∀ s : State, s.running = true →
    let clash := 0 < s.keying.nextTick ∧ (s.key.state = .holding ∨ s.key.state = .yielding)
      ∧ s.keying.own.kyl = false ∧ s.keying.peer.kyl = true
    (clash → ∃ t, exec .kylReadback s = .next t ∧ s.collidesTo t) ∧ (¬clash → exec .kylReadback s = .next s))
    ∧ (∀ (t : Instant) (peer : KeyingLines) (s : State), s.running = true →
      exec (.keyingBusChange t peer) s =
        .next { s with
          keying := { s.keying with peer := peer }
          dec :=
            { s.dec with
              busTrace :=
                s.dec.busTrace
                  ++ [⟨t, s.keying.own.kyl || peer.kyl, s.keying.own.kya || peer.kya,
                    s.keying.own.kyr || peer.kyr⟩] } })
      ∧ ∀ s : State, s.running = true → exec .cusPulseEnd s = .next { s with dec := { s.dec with cus := false } }

/-! ### The concord window (chapters 5 to 7) -/

/-- At the own window start the window opens and notes what governs it: the key state (R78), the reference state (R72), the
standing of the draft held last (R81), where it is free whether one stands before the first hand-over after a power-on, RSTN
or RESTART (the model's choice, log 36), and the SHADOW report (R132). A LOCKED unit drives SYNC, unless it saw an edge more
than 2 ms earlier (R72). A late SYNC is driven by a unit that was in HOLDOVER, STEPPING or EXPIRED there and has seen no
edge, and no SYNC drive outlasts its end (R72). -/
def Obligations.WindowOpensAndSyncIsDriven : Prop :=
  (∀ s : State, s.running = true → s.win.phase = .waiting →
    ∃ (a : WindowStart) (drive : Bool),
      exec .ownWindowStart s =
          .next { s with
            win :=
              { s.win with
                phase := .opened
                atStart := some a
                syncDrive := if drive then .atStart else .notDriven
                syncDriving := drive } }
      ∧ (drive = true ↔
          s.trk.refState = .locked ∧ ∀ t, s.win.sync = some t → s.trk.lastEdge + 100000 ≤ t + 2000)
      ∧ a.key = s.key.state ∧ a.ref = s.trk.refState
      ∧ (a.standing = true ↔
          (s.handedOver = true ∨ Config.standingBeforeHandOver = true)
            ∧ ((∃ d, s.next = some d ∧ d.participant = true)
              ∨ (s.next = none ∧ ∃ d, s.current = some d ∧ d.participant = true)))
      ∧ (a.report ≠ .none ↔ s.key.state = .standby ∧ ∃ v, s.dec.evidence = some v ∧ v.assent = true)
      ∧ (a.report = .accuse ↔
          s.key.state = .standby
            ∧ ∃ v, s.dec.evidence = some v ∧ v.assent = true ∧ v.beacon = true ∧ v.coded = true ∧ v.mismatch = true))
    ∧ (∀ (a : WindowStart) (s : State), s.running = true → s.win.phase = .opened → s.win.atStart = some a →
      exec .lateSync s =
        .next
          (if s.win.sync = none ∧ s.win.syncDrive = .notDriven
              ∧ (a.ref = .holdover ∨ a.ref = .stepping ∨ a.ref = .expired) then
            { s with win := { s.win with syncDrive := .late, syncDriving := true } }
          else s))
    ∧ ∀ s : State, s.running = true →
      exec .syncDriveEnd s = .next { s with win := { s.win with syncDriving := false } }

/-- The first rising edge of CCO from 20 ms before to 5 ms after the own window start is the observed SYNC edge; within 2 ms
of the own window start the window is ALIGNED, so also at the instant of the unit's own late SYNC, and ASKEW otherwise
(R73, R74). A later edge, and one outside the watch interval, changes nothing. -/
def Obligations.ObservedEdgeSetsTheAlignment : Prop :=
  ∀ (t : Instant) (s : State), s.running = true → s.win.phase ≠ .over →
    let start := s.trk.lastEdge + 100000
    (s.win.sync = none → start ≤ t + 20000 → t ≤ start + 5000 →
      exec (.syncEdgeObserved t) s =
        .next { s with
          win :=
            { s.win with
              sync := some t
              alignment :=
                some
                  (if t ≤ start + 2000 ∧ start ≤ t + 2000 then .aligned
                  else if s.win.syncDrive = .late ∧ t = start + 3000 then .aligned
                  else .askew) } })
      ∧ (s.win.sync ≠ none ∨ t + 20000 < start ∨ start + 5000 < t → exec (.syncEdgeObserved t) s = .next s)

/-- A window without an edge is found dead and closed: record, peer table, askew run, beacon and listening as for a window in
which every cell read neutral (R74, R75, R79, R88, R107, R121), a pass it carried is missed (R99), and a yield it was to
resolve is cancelled (R112). -/
def Obligations.DeadWindowIsClosed : Prop :=
  ∀ s : State, s.running = true → s.win.phase = .opened → s.win.sync = none →
    ∃ t, exec .deadWindow s = .next t
      ∧ t = { s with
          key := t.key, nextRec := t.nextRec, peers := t.peers, winRec := t.winRec, win := t.win, ev := t.ev, dec := t.dec }
      ∧ t.winRec =
          some
            { second := s.windowNumber
              alignment := .dead
              syncDrive := s.win.syncDrive
              offset := none
              present := 0
              hold := 0
              shadow := .none
              steady := false
              quiet := false
              yieldSet := false
              bidding := false }
      ∧ (∀ p : Fin 8,
          t.peers[p] =
            { s.peers[p] with present := false, holding := false, absentRun := min 255 ((s.peers[p]).absentRun + 1) })
      ∧ t.win.phase = .over ∧ t.win.pullCca = false ∧ t.win.driveCco = false
      ∧ t.key.askewRun = 0 ∧ t.key.beaconAbsent = true ∧ t.key.unsupported = 0
      ∧ t.key.listening = 0 ∧ t.key.listenOpen = false
      ∧ (∀ r, s.nextRec = some r →
          t.nextRec =
            some
              (if r.outcome = .pending ∧ r.nextPass ≠ none ∧ s.windowPass = r.nextPass then
                { r with standing := some .blind }
              else r))
      ∧ (s.key.state = .yielding → s.lastSecondWindow = true → s.win.atStart.map WindowStart.key = some .yielding →
          s.win.yieldResolved = false → s.key.pendingRelease = false → s.key.pendingFence = false →
          t.key.state = .holding ∧ t.latched .yieldCancelled = true)

/-- At a cell start the next cell is driven by Table 5.2: PRESENT of the own position in every live window (R77); every other
cell only when ALIGNED (R74): HOLD (R78), SHADOW (R82), STEADY and QUIET with standing (R83, R84), YIELD (R85), DIGEST by a
contender that has not dropped out (R87, R92), ASSENT when its digest equals the pass result (R93), BIDDING and BIDVALUE by
a bidder (R109). `other` says that the cell is not the own PRESENT cell. -/
def Obligations.CellsAreDrivenByTheMap : Prop :=
  ∀ (a : WindowStart) (n : Nat) (s : State), s.running = true → s.win.phase ≠ .over → s.win.atStart = some a →
    s.win.alignment ≠ none → n = s.win.cell + 1 → n ≤ 66 → (s.win.cell = 0 ∨ s.win.sampled = true) →
    ∃ t, exec .cellDriveStart s = .next t
      ∧ t = { s with win := t.win } ∧ t.win.cell = n ∧ t.win.sampled = false
      ∧ (let p := s.straps.position.val
        let aligned := s.win.alignment = some .aligned
        let contends := (s.windowPass ≠ none) ∧ (s.next ≠ none)
          ∧ ∃ r, s.nextRec = some r ∧ r.standing = some .contender
        let other := n ≠ 1 + 2 * p
        (n = 1 + 2 * p → t.win.driveCco = true ∧ t.win.pullCca = false)
          ∧ (other → ¬aligned → t.win.driveCco = false ∧ t.win.pullCca = false)
          ∧ (other → aligned →
            (n ≠ 21 → t.win.digestDriving = s.win.digestDriving)
              ∧ (n = 21 → (t.win.digestDriving = true ↔ contends))
              ∧ (t.win.bidDriving = if n = 62 then s.win.bidder else s.win.bidDriving)
              ∧ (t.win.driveCco = true ↔
                (n = 2 + 2 * p
                    ∧ (a.key = .holding ∨ (a.key = .yielding ∧ s.lastSecondWindow = false)))
                  ∨ (n = 17 ∧ a.report = .accuse)
                  ∨ (n = 18 ∧ a.standing = true ∧ s.req.steady = true)
                  ∨ (n = 19 ∧ a.standing = true ∧ s.req.quiet = true)
                  ∨ (n = 20 ∧ a.key = .yielding ∧ s.lastSecondWindow = true)
                  ∨ (n = 53 + p ∧ contends ∧ s.win.equalsResult = true)
                  ∨ (n = 61 ∧ s.win.bidder = true))
              ∧ (t.win.pullCca = true ↔
                (n = 17 ∧ a.report = .clear)
                  ∨ (n = 18 ∧ a.standing = true ∧ s.req.steady = false)
                  ∨ (21 ≤ n ∧ n ≤ 52 ∧ t.win.digestDriving = true
                    ∧ ((s.next.map Draft.digest).getD 0).getLsbD (52 - n) = false)
                  ∨ (62 ≤ n ∧ n ≤ 66 ∧ t.win.bidDriving = true
                    ∧ (BitVec.ofNat 5 (8 * s.straps.precedence.val + p)).getLsbD (66 - n) = false))))

/-- A PRESENT or HOLD cell is read at its sample point. A position whose cell reads 1 enters the PRESENT or the HOLD set
(R77, R78). HOLD 1 of another position is a collision for a holder, as is its own in the last second when it began the window
YIELDING (R113), or is YIELDING at a cell before the own window start (the model's choice, log 24); a unit that is not the
holder raises COLLISION for its own position alone (R114). -/
def Obligations.PresentAndHoldCellsAreRead : Prop :=
  ∀ (p : Fin 8) (o : OthersDrive) (s : State),
    (s.beforeSample (1 + 2 * p.val) →
      exec (.holdCellSample o) s =
        .next { s with
          win :=
            { s.win with
              sampled := true
              present := if s.win.cco o then s.win.present ||| (1#8 <<< p.val) else s.win.present } })
      ∧ (s.beforeSample (2 + 2 * p.val) →
        let s1 : State :=
          { s with
            win :=
              { s.win with
                sampled := true
                hold := if s.win.cco o then s.win.hold ||| (1#8 <<< p.val) else s.win.hold } }
        let holder := s.key.state = .holding ∨ s.key.state = .yielding
        let began := match s.win.atStart with
          | some a => a.key
          | none => s.key.state
        let foreign := p ≠ s.straps.position ∨ (s.lastSecondWindow = true ∧ began = .yielding)
        (s.win.cco o = true → holder → foreign → ∃ t, exec (.holdCellSample o) s = .next t ∧ s1.collidesTo t)
          ∧ (s.win.cco o = true → holder → ¬foreign → exec (.holdCellSample o) s = .next s1)
          ∧ (s.win.cco o = true → ¬holder →
            exec (.holdCellSample o) s = .next (if p = s.straps.position then s1.raise .collision else s1))
          ∧ (s.win.cco o = false → exec (.holdCellSample o) s = .next s1))

/-- The SHADOW cell reads UNANIMOUS, SPLIT or NONE (R82). UNANIMOUS sets the pending fence of a unit that has been the holder
since the edge before the last (R115). SPLIT adds one to the count of a unit that drove ACCUSE and raises SHADOW_SPLIT, and
the third makes it FENCED with the count at 0 (R116). -/
def Obligations.ShadowCellIsRead : Prop :=
  ∀ (o : OthersDrive) (s : State), s.beforeSample 17 →
    let outcome : ShadowOutcome :=
      if s.win.cco o = false then .none else if s.win.cca o then .unanimous else .split
    let s1 : State := { s with win := { s.win with sampled := true, shadow := outcome } }
    let accused := (s.key.state = .holding ∨ s.key.state = .yielding) ∧ 2 ≤ s.key.heldEdges
    let accused' := s.win.alignment = some .aligned ∧ (∃ a, s.win.atStart = some a ∧ a.report = .accuse)
      ∧ s.key.state = .standby
    (outcome = .none → exec (.shadowSample o) s = .next s1)
      ∧ (outcome = .unanimous → accused →
        exec (.shadowSample o) s = .next { s1 with key := { s.key with pendingFence := true } })
      ∧ (outcome = .unanimous → ¬accused → exec (.shadowSample o) s = .next s1)
      ∧ (outcome = .split → ¬accused' → exec (.shadowSample o) s = .next s1)
      ∧ (outcome = .split → accused' → s.key.unsupported < 2 →
        exec (.shadowSample o) s =
          .next ({ s1 with key := { s.key with unsupported := s.key.unsupported + 1 } }.raise .shadowSplit))
      ∧ (outcome = .split → accused' → 2 ≤ s.key.unsupported →
        exec (.shadowSample o) s =
          .next
            (({ s1 with key := { s.key with unsupported := 0, state := .fenced } }.raise .shadowSplit).raise .fenced))

/-- A unit reads CCA as 0 while it or another pulls it low and CCO as 1 while it or another drives it (R70, Table 5.1).
STEADY is decided when CCO and CCA read 1 (R83), QUIET when CCO reads 1 (R84), YIELD is set when CCO reads 1 (R85). -/
def Obligations.FlagCellsAreRead : Prop :=
  (∀ (w : Window) (o : OthersDrive), w.syncDriving = false →
    (w.cca o = true ↔ w.pullCca = false ∧ o.pullCca = false)
      ∧ (w.cco o = true ↔ w.driveCco = true ∨ o.driveCco = true))
    ∧ ∀ (o : OthersDrive) (s : State),
    (s.beforeSample 18 →
      exec (.flagCellSample o) s =
        .next { s with win := { s.win with sampled := true, steady := s.win.cco o && s.win.cca o } })
      ∧ (s.beforeSample 19 →
        exec (.flagCellSample o) s = .next { s with win := { s.win with sampled := true, quiet := s.win.cco o } })
      ∧ (s.beforeSample 20 →
        exec (.flagCellSample o) s = .next { s with win := { s.win with sampled := true, yieldSet := s.win.cco o } })

/-- A vacancy is seen when the HOLD set is empty and YIELD is set, when it is empty and the beacon was absent before, or when
SHADOW reads UNANIMOUS (R107). A unit then bids when it is STANDBY, its bid bar is clear, the window is ALIGNED, it has no
pending take, and its role is ASSENT in the CONCORD record of the minute of the coming second (R108). -/
def Obligations.VacancyAndBid : Prop :=
  ∀ s : State, s.afterSample 20 → s.win.vacancyTaken = false →
    ∃ v b : Bool,
      exec .vacancy s = .next { s with win := { s.win with vacancyTaken := true, vacancy := v, bidder := b } }
        ∧ (v = true ↔
          (s.win.hold = 0 ∧ s.win.yieldSet = true) ∨ (s.win.hold = 0 ∧ s.key.beaconAbsent = true)
            ∨ s.win.shadow = .unanimous)
        ∧ (b = true ↔
          v = true ∧ s.key.state = .standby ∧ s.key.bidBar = false ∧ s.win.alignment = some .aligned
            ∧ s.key.pendingTake = none
            ∧ ∃ r, (if s.lastSecondWindow then s.nextRec else s.curRec) = some r
              ∧ r.outcome = .concord ∧ r.role = some .assent)

/-- A DIGEST cell is read bit by bit; a unit that left CCA released for a 1 bit and reads 0 drops out, and drives no further
cell (R87). At cell 52 of a pass window the value read is the pass result, compared with the NEXT digest
(R92). An ASSENT cell that reads 1 enters the pass's assenting positions and writes the pass number into that position's
assent pass field if it still reads none (R93). -/
def Obligations.PassCellsAreRead : Prop :=
  (∀ (n : Nat) (o : OthersDrive) (s : State), 21 ≤ n → n ≤ 52 → s.beforeSample n →
    ∃ driving : Bool,
      exec (.digestCellSample o) s =
          .next { s with
            win :=
              { s.win with
                sampled := true
                digestRead := (s.win.digestRead <<< 1) ||| (if s.win.cca o then 1#32 else 0#32)
                digestDriving := driving } }
        ∧ (driving = true ↔
          s.win.digestDriving = true ∧ ¬(s.win.pullCca = false ∧ s.win.cca o = false)))
    ∧ (∀ s : State, s.afterSample 52 → s.win.passResult = none → s.windowPass ≠ none →
      exec .passResult s =
        .next { s with
          win :=
            { s.win with
              passResult := some s.win.digestRead
              equalsResult := decide (s.next.map Draft.digest = some s.win.digestRead) } })
    ∧ ∀ (p : Fin 8) (pass : Nat) (o : OthersDrive) (s : State), s.beforeSample (53 + p.val) → s.windowPass = some pass →
      ∃ t, exec (.assentCellSample o) s = .next t
        ∧ t = { s with win := { s.win with sampled := true, assents := t.win.assents }, peers := t.peers }
        ∧ (s.win.cco o = false → t.win.assents = s.win.assents ∧ ∀ q : Fin 8, t.peers[q] = s.peers[q])
        ∧ (s.win.cco o = true →
          t.win.assents = s.win.assents ||| (1#8 <<< p.val)
            ∧ (∀ q : Fin 8, q ≠ p → t.peers[q] = s.peers[q])
            ∧ (s.peers[p]).present = (t.peers[p]).present ∧ (s.peers[p]).holding = (t.peers[p]).holding
            ∧ (t.peers[p]).assentPass = some ((s.peers[p]).assentPass.getD pass))

/-- The decision on a pass at cell 60 by a PENDING record that is not BLIND: a tally of the quorum gives CONCORD on the
result, a tally of 0 or pass 3 gives NONE, and otherwise the next pass follows and a CONTENDER that holds the result has
LEFT (R90, R94). With the decision the role is set (R96), DISSENT and NO_CONCORD are raised (R97), and a HOLDING unit whose
role on a CONCORD is not ASSENT becomes YIELDING (R111). A BLIND record learns CONCORD from a quorum in any pass, and NONE from
pass 3 with a tally between 1 and one less than the quorum; every other reading leaves it as it is (R99). -/
def Obligations.PassDecision : Prop :=
  ∀ (pass : Nat) (v : Word32) (d : Draft) (r : ConcordRecord) (s : State), s.afterSample 60 →
    s.windowPass = some pass → s.win.passResult = some v → s.next = some d → s.nextRec = some r →
    r.outcome = .pending →
    let tally := ((List.range 8).filter fun p => s.win.assents.getLsbD p).length
    let role (o : RecordOutcome) : Role :=
      if d.participant = false then .abstain else if o = .concord ∧ d.digest = v then .assent else .dissent
    let decided (o : RecordOutcome) : ConcordRecord :=
      { minute := r.minute
        outcome := o
        digest := if o = .concord then some v else none
        tally := tally
        passesUsed := pass
        role := some (role o)
        assenting := s.win.assents
        standing := some .decided
        nextPass := none }
    ∃ t, exec .passDecision s = .next t
      ∧ t = { s with nextRec := t.nextRec, key := t.key, ev := t.ev }
      ∧ (s.straps.roll / 2 + 1 ≤ tally →
        t.nextRec = some (decided .concord)
          ∧ t.key =
              (if s.key.state = .holding ∧ role .concord ≠ .assent then { s.key with state := .yielding } else s.key)
          ∧ t.ev = if role .concord = .dissent then (s.raise .dissent).ev else s.ev)
      ∧ (tally < s.straps.roll / 2 + 1 →
          (r.standing ≠ some .blind ∧ (tally = 0 ∨ pass = 3)) ∨ (r.standing = some .blind ∧ pass = 3 ∧ tally ≠ 0) →
        t.nextRec = some (decided .none) ∧ t.key = s.key
          ∧ t.ev = if d.participant then ((s.raise .dissent).raise .noConcord).ev else s.ev)
      ∧ (tally < s.straps.roll / 2 + 1 → r.standing = some .blind → tally = 0 ∨ pass ≠ 3 →
        t.nextRec = some r ∧ t.key = s.key ∧ t.ev = s.ev)
      ∧ (tally < s.straps.roll / 2 + 1 → r.standing ≠ some .blind → tally ≠ 0 → pass ≠ 3 →
        t.nextRec =
            some
              { r with
                nextPass := some (pass + 1)
                standing := if r.standing = some .contender ∧ d.digest = v then some .left else r.standing }
          ∧ t.key = s.key ∧ t.ev = s.ev)

/-- At the BIDDING cell of the last second a unit that began the window YIELDING resolves its yield: 1 sets its pending
release, 0 makes it HOLDING with YIELD_CANCELLED (R112), and the window keeps that its yield is resolved (log 13); with a
fence pending too (log 12). A bidder that reaches the end of
BIDVALUE without dropping out has won, and takes the key at the next own edge (R87, R109, R110). -/
def Obligations.BiddingAndBidValue : Prop :=
  (∀ (o : OthersDrive) (s : State), s.beforeSample 61 →
    let s1 : State := { s with win := { s.win with sampled := true, bidding := s.win.cco o } }
    let resolves := s.lastSecondWindow = true ∧ s.win.atStart.map WindowStart.key = some .yielding
      ∧ s.key.state = .yielding
    (resolves → s.win.cco o = true →
      exec (.biddingSample o) s =
        .next { s1 with win := { s1.win with yieldResolved := true }, key := { s.key with pendingRelease := true } })
      ∧ (resolves → s.win.cco o = false →
        exec (.biddingSample o) s =
          .next
            ({ s1 with
                win := { s1.win with yieldResolved := true }
                key := { s.key with state := .holding } }.raise .yieldCancelled))
      ∧ (¬resolves → exec (.biddingSample o) s = .next s1))
    ∧ ∀ (n : Nat) (o : OthersDrive) (s : State), 62 ≤ n → n ≤ 66 → s.beforeSample n →
      ∃ driving : Bool,
        exec (.bidvalueCellSample o) s =
            .next { s with
              win :=
                { s.win with
                  sampled := true
                  bidRead := (s.win.bidRead <<< 1) ||| (if s.win.cca o then 1#5 else 0#5)
                  bidDriving := driving }
              key :=
                if n = 66 ∧ driving = true then { s.key with pendingTake := some s.trk.nextCount.second } else s.key }
          ∧ (driving = true ↔ s.win.bidDriving = true ∧ ¬(s.win.pullCca = false ∧ s.win.cca o = false))

/-- The close of a window at the end of cell 66: the window record takes its number, alignment, SYNC drive, offset and
readings (R88), every row of the peer table its PRESENT and HOLD readings and its absent-window run (R79), the beacon-absent
flag follows the HOLD set (R107), the askew run counts, with SKEW and the yield of a HOLDING unit at the fifth (R75, R111),
the HOLD set enters the keyers (R131), and the unsupported count stays only after a SPLIT that the unit accused in (R116).
The offset is the one tenth of a millisecond, or one of the two, that it lies at or between (log 9). -/
def Obligations.WindowCloseUpdatesTheRecords : Prop :=
  ∀ (a : Machine.Alignment) (sync : Instant) (s : State), s.afterSample 66 → s.win.phase = .opened →
    s.win.alignment = some a → a ≠ .dead → s.win.sync = some sync →
    ∃ t offset, exec .windowClose s = .next t
      ∧ t = { s with key := t.key, peers := t.peers, winRec := t.winRec, dec := t.dec, win := t.win, ev := t.ev }
      ∧ t.winRec =
          some
            { second := s.windowNumber
              alignment := a
              syncDrive := s.win.syncDrive
              offset := some offset
              present := s.win.present
              hold := s.win.hold
              shadow := s.win.shadow
              steady := s.win.steady
              quiet := s.win.quiet
              yieldSet := s.win.yieldSet
              bidding := s.win.bidding }
      ∧ (let us : Int := (sync : Int) - ((s.trk.lastEdge + 100000 : Nat) : Int)
        us - 100 < 100 * offset ∧ 100 * offset < us + 100)
      ∧ (∀ p : Fin 8,
          t.peers[p] =
            { s.peers[p] with
              present := s.win.present.getLsbD p.val
              holding := s.win.hold.getLsbD p.val
              absentRun :=
                if s.win.present.getLsbD p.val then 0 else min 255 ((s.peers[p]).absentRun + 1) })
      ∧ t.win.phase = .over ∧ t.win.pullCca = false ∧ t.win.driveCco = false
      ∧ t.dec =
          { s.dec with
            openMinute :=
              if s.windowNumber = none then s.dec.openMinute
              else s.dec.openMinute.map fun m => { m with keyers := m.keyers ||| s.win.hold } }
      ∧ (let run := if a = .askew then min 255 (s.key.askewRun + 1) else 0
        t.key =
            { s.key with
              askewRun := run
              beaconAbsent := decide (s.win.hold = 0)
              unsupported :=
                if s.win.shadow = .split ∧ a = .aligned
                    ∧ s.win.atStart.map WindowStart.report = some .accuse then
                  s.key.unsupported
                else 0
              state := if a = .askew ∧ run = 5 ∧ s.key.state = .holding then .yielding else s.key.state }
          ∧ t.ev = if a = .askew ∧ run = 5 then (s.raise .skew).ev else s.ev)

/-! ### The controller link (chapter 11) -/

/-- The receiver (R173). The first character makes it COLLECTING and the following are appended, until the frame is whole; a
length above 64 makes it DRAINING with the code kept; in DRAINING and RESPONDING a character is discarded. A framing error
in EMPTY or COLLECTING makes it DRAINING. A gap of 10 ms discards a partial frame, and ends DRAINING in EMPTY, or in a
FORMAT response with the kept code. The character that makes a frame whole is its check byte: the frame is checked and
answered FORMAT or taken (R174), as O44 says of a frame that arrives in EMPTY. A command row that comes in DRAINING or
RESPONDING is discarded whole. That the row stands for its whole frame, and CLI_FRAME for its characters one after another, is
the model's convention (logs 16 and 17). -/
def Obligations.ReceiverTakesCharacters : Prop :=
  (∀ s : State, s.running = true →
    (∀ b, s.link.rx = .empty → exec (.cliCharacter b) s = .next (s.setRx (.collecting [b])))
      ∧ (∀ code len, s.link.rx = .collecting [code] → len.toNat ≤ 64 →
        exec (.cliCharacter len) s = .next (s.setRx (.collecting [code, len])))
      ∧ (∀ code len, s.link.rx = .collecting [code] → 64 < len.toNat →
        exec (.cliLengthOverrun len) s = .next (s.setRx (.draining (some code))))
      ∧ (∀ code len body b, s.link.rx = .collecting (code :: len :: body) → len.toNat ≤ 64 →
        body.length < len.toNat → exec (.cliCharacter b) s = .next (s.setRx (.collecting (code :: len :: (body ++ [b])))))
      ∧ (∀ code len body check, s.link.rx = .collecting (code :: len :: body) → len.toNat ≤ 64 →
        body.length = len.toNat →
        let right := check = crc8 (code :: len :: body)
        (¬right ∨ requestOf code body = none →
          exec (.cliCharacter check) s = .next (s.setRx (.responding (responseFrame code .format []))))
          ∧ ∀ r, right → requestOf code body = some r →
            exec (.cliCharacter check) s =
              .next
                ((perform r s).state.setRx (.responding (responseFrame code (perform r s).status (perform r s).body))))
      ∧ exec (.cliFrame []) s = .next s
      ∧ (∀ c bytes u, exec (.cliCharacter c) s = .next u → exec (.cliFrame (c :: bytes)) s = exec (.cliFrame bytes) u)
      ∧ (∀ b, (∃ k, s.link.rx = .draining k) ∨ (∃ f, s.link.rx = .responding f) →
        exec (.cliCharacter b) s = .next s ∧ exec (.cliLengthOverrun b) s = .next s)
      ∧ (s.link.rx = .empty ∨ (∃ bs, s.link.rx = .collecting bs) →
        exec .cliFramingError s = .next (s.setRx (.draining none)))
      ∧ ((∃ k, s.link.rx = .draining k) ∨ (∃ f, s.link.rx = .responding f) → exec .cliFramingError s = .next s)
      ∧ ((∃ bs, s.link.rx = .collecting bs) ∨ s.link.rx = .draining none →
        exec .cliGapTimeout s = .next (s.setRx .empty))
      ∧ (∀ code, s.link.rx = .draining (some code) →
        exec .cliGapTimeout s = .next (s.setRx (.responding (responseFrame code .format [])))))
    ∧ ∀ (c : Instr) (s : State), s.running = true →
      ((∃ k, s.link.rx = .draining k) ∨ ∃ f, s.link.rx = .responding f) →
      c ∈ [Instr.statusRead, .eventsRead, .peersRead, .concordRead, .airlogRead, .zoneRead, .keyYield, .readmit, .restart]
        ∨ (∃ m, c = .eventsClear m ∨ c = .eventsEnable m) ∨ (∃ b, c = .descWrite b)
        ∨ (∃ b, c = .descHand b ∨ c = .descRecall b ∨ c = .descRead b ∨ c = .laneStop b ∨ c = .laneResume b
          ∨ c = .laneClear b)
        ∨ (∃ l h g r, c = .laneStart l h g r) ∨ (∃ t z, c = .zoneAdd t z ∨ c = .zoneRemove t)
        ∨ (∃ x y, c = .requestSet x y) →
      exec c s = .next s

/-- A whole frame that arrives in EMPTY is checked (R174): a wrong check byte, a code that Table 11.4 does not have and a body
length that is not the code's give FORMAT with the received code and no other effect; otherwise the command is taken, and its
effect and its answer are those of the command's own row. The codes and lengths are those of Table 11.4. A response is the
code, the status, the body length in two bytes, the body and the check of all that (R172, Table 11.2). For each of the 22
commands, the frame of its code, its operands in the order of Table 11.4 and the right check byte makes that request, and
CLI_FRAME with that frame does what the command's own row does, in every state of the receiver (that the row stands for the
frame, and CLI_FRAME for its characters, is the model's convention, logs 16 and 17). -/
def Obligations.FramesAreCheckedAndTaken : Prop :=
  (∀ (code len check : Byte) (body : List Byte) (s : State), s.running = true → s.link.rx = .empty →
    len.toNat ≤ 64 → body.length = len.toNat →
    let frame := code :: len :: (body ++ [check])
    let format : Host.Outcome State Fault Refusal := .next (s.setRx (.responding (responseFrame code .format [])))
    let right := check = crc8 (code :: len :: body)
    (¬right → exec (.cliFrame frame) s = format)
      ∧ (right → requestOf code body = none → exec (.cliFrame frame) s = format)
      ∧ (∀ r, right → requestOf code body = some r →
        requestCode r = code
          ∧ exec (.cliFrame frame) s =
              .next ((perform r s).state.setRx (.responding (responseFrame code (perform r s).status (perform r s).body)))))
    ∧ (∀ (code : Byte) (body : List Byte),
      (requestOf code body).isSome = true ↔
        (code.toNat, body.length) ∈
          [(0x01, 0), (0x02, 0), (0x03, 3), (0x04, 3), (0x05, 0), (0x06, 0), (0x07, 0), (0x10, 60), (0x11, 1), (0x12, 1),
            (0x13, 1), (0x18, 4)]
            ++ [(0x19, 1), (0x1A, 1), (0x1B, 1), (0x20, 5), (0x21, 4), (0x22, 0), (0x28, 2), (0x30, 0), (0x31, 0), (0x3F, 0)])
    ∧ (∀ (code : Byte) (st : Status) (body : List Byte), body.length < 65536 → ∃ hi lo : Byte,
      256 * hi.toNat + lo.toNat = body.length
        ∧ responseFrame code st body =
            [code, st.code, hi, lo] ++ body ++ [crc8 ([code, st.code, hi, lo] ++ body)])
    ∧ ∀ (a b c d z : Byte) (w : DescBody) (s : State),
      ∀ x ∈
          ([(.statusRead, .statusRead, 0x01, []), (.eventsRead, .eventsRead, 0x02, []),
              (.eventsClear (a ++ b ++ c), .eventsClear (a ++ b ++ c), 0x03, [a, b, c]),
              (.eventsEnable (a ++ b ++ c), .eventsEnable (a ++ b ++ c), 0x04, [a, b, c]),
              (.peersRead, .peersRead, 0x05, []), (.concordRead, .concordRead, 0x06, []),
              (.airlogRead, .airlogRead, 0x07, [])]
            ++ [(.descWrite w, .descWrite w, 0x10,
                [w.index, w.annId, w.segNo, w.lastSeg, w.repeats, w.endFlag, w.next, w.cueCount, w.cue1Second, w.cue1Value,
                  w.cue2Second, w.cue2Value] ++ w.payload.toList),
              (.descHand a, .descHand a, 0x11, [a]), (.descRecall a, .descRecall a, 0x12, [a]),
              (.descRead a, .descRead a, 0x13, [a]),
              (.laneStart a b c d, .laneStart a b c d, 0x18, [a, b, c, d]),
              (.laneStop a, .laneStop a, 0x19, [a]), (.laneResume a, .laneResume a, 0x1A, [a]),
              (.laneClear a, .laneClear a, 0x1B, [a])]
            ++ [(.zoneAdd (a ++ b ++ c ++ d) z, .zoneAdd (a ++ b ++ c ++ d) z, 0x20, [a, b, c, d, z]),
              (.zoneRemove (a ++ b ++ c ++ d), .zoneRemove (a ++ b ++ c ++ d), 0x21, [a, b, c, d]),
              (.zoneRead, .zoneRead, 0x22, []), (.requestSet a b, .requestSet a b, 0x28, [a, b]),
              (.keyYield, .keyYield, 0x30, []), (.readmit, .readmit, 0x31, []), (.restart, .restart, 0x3F, [])] :
            List (Instr × Request × Byte × List Byte)),
        let head := x.2.2.1 :: BitVec.ofNat 8 x.2.2.2.length :: x.2.2.2
        requestOf x.2.2.1 x.2.2.2 = some x.2.1 ∧ exec x.1 s = exec (.cliFrame (head ++ [crc8 head])) s

/-- RESTART is answered DONE and waits (R170); at the end of a response the receiver becomes EMPTY (R175), and a RESTART that
waits is performed then: tracker, drafts, records, key controller, window, decoder and latches are reset, the lanes become
STOPPED, and straps, zone table, store, local requests, enable mask and the rest of the lanes are kept (R170). The reset
values of tracker and key controller that no rule gives are the model's choice (log 5), and so is that a REFP edge accepted as
the next own edge is dropped (log 38). That no hand-over has been noted is the model's own field (log 36). -/
def Obligations.ResponseEndAndRestart : Prop :=
  (∀ s : State, s.hears →
    exec .restart s = .next (respond 0x3F .done [] { s with link := { s.link with restartPending := true } }))
    ∧ (∀ (t : Instant) (f : List Byte) (s : State), s.running = true → s.link.rx = .responding f →
      s.link.restartPending = false → exec (.responseEnd t) s = .next (s.setRx .empty))
    ∧ ∀ (t : Instant) (f : List Byte) (s : State), s.running = true → s.link.rx = .responding f →
      s.link.restartPending = true → ∃ u, exec (.responseEnd t) s = .next u
        ∧ u.trk =
            { State.reset.trk with
              anchor := s.trk.anchor, lastEdge := s.trk.lastEdge, byOscillator := s.trk.byOscillator }
        ∧ u.next = none ∧ u.current = none ∧ u.nextRec = none ∧ u.curRec = none ∧ u.handedOver = false
        ∧ u.key = State.reset.key
        ∧ u.keying.out = .none ∧ u.keying.own = linesReleased ∧ u.keying.loop = linesReleased
        ∧ u.win.phase ≠ .opened ∧ u.win.pullCca = false ∧ u.win.driveCco = false ∧ u.win.syncDriving = false
        ∧ u.winRec = none
        ∧ (∀ p : Fin 8, u.peers[p] = ⟨false, false, 0, none, (s.peers[p]).self⟩)
        ∧ u.dec.openMinute = none ∧ u.dec.log = [] ∧ u.dec.lastCue = 0 ∧ u.dec.cus = false
        ∧ (∀ l, u.laneAt l = { s.laneAt l with state := .stopped })
        ∧ u.lanes.rotation = s.lanes.rotation ∧ u.lanes.lastEvent = none
        ∧ u.store = s.store ∧ u.zone = s.zone ∧ u.straps = s.straps ∧ u.req = s.req ∧ u.pwr = s.pwr
        ∧ u.ev = ⟨0, s.ev.mask⟩ ∧ u.atn = false
        ∧ u.link = ⟨.empty, false⟩

/-- EVENTS READ returns the latches and the enable mask, bit 23 of each as 0, and clears nothing; EVENTS CLEAR clears the
latches that its mask names; EVENTS ENABLE replaces the enable mask; both are refused RANGE, without effect, when bit 23 of
the carried mask is set; each performed command is answered DONE, and ATN is high exactly while a latch is set whose mask bit
is set (R183, R184). Raising event n of Table 11.6 sets bit n - 1 of the latches and nothing else, and its latch is that bit
(R182, R183). -/
def Obligations.EventCommands : Prop :=
  (∀ s : State,
    ∀ x ∈
      ([(.refLocked, 1), (.refLost, 2), (.refExpired, 3), (.refStep, 4), (.realigned, 5), (.leapApplied, 6), (.zoneApplied, 7),
          (.noConcord, 8), (.dissent, 9), (.skew, 10), (.keyTaken, 11), (.keyReleased, 12)]
        ++ [(.yieldCancelled, 13), (.collision, 14), (.fenced, 15), (.proven, 16), (.provingFailed, 17), (.shadowSplit, 18),
          (.airIncomplete, 19), (.cue, 20), (.laneStarved, 21), (.laneFault, 22), (.announceDone, 23)] : List (Event × Nat)),
      s.latched x.1 = s.ev.latches.getLsbD (x.2 - 1)
        ∧ s.raise x.1 = { s with ev := { s.ev with latches := s.ev.latches ||| (1#24 <<< (x.2 - 1)) } })
    ∧ ∀ (m : Word24) (s : State), s.hears →
    exec .eventsRead s = .next (respond 0x02 .done (eventsBody s) s)
      ∧ (m.getLsbD 23 = false →
        exec (.eventsClear m) s =
            .next (respond 0x03 .done [] { s with ev := { s.ev with latches := s.ev.latches &&& ~~~m } })
          ∧ exec (.eventsEnable m) s = .next (respond 0x04 .done [] { s with ev := { s.ev with mask := m } }))
      ∧ (m.getLsbD 23 = true →
        exec (.eventsClear m) s = .next (respond 0x03 .range [] s)
          ∧ exec (.eventsEnable m) s = .next (respond 0x04 .range [] s))
      ∧ (∃ a b c x y z : Byte, eventsBody s = [a, b, c, x, y, z] ∧ a ++ b ++ c = s.ev.latches
          ∧ x ++ y ++ z = s.ev.mask ∧ (s.eventsOk → a.getLsbD 7 = false ∧ x.getLsbD 7 = false))
      ∧ (s.atn = true ↔ ∃ i, s.ev.latches.getLsbD i = true ∧ s.ev.mask.getLsbD i = true)

/-- The reads are answered DONE with a body formed from the state as it stands and change nothing but the receiver (R178).
DESC READ refuses an index above 127 with RANGE (R147). The bodies are laid out as R177 and R179 to R181 give them, with the
codes of R176: a value of one, two or four bytes most significant first, a yes or no as 01h or 00h, what is absent as FFh in
every byte. That an invalid count reads FFh is the model's choice (log 19). STATUS is 118 bytes with a rotation order of four
lanes, PEERS 53, CONCORD 32, an air record 51, a zone entry 6. -/
def Obligations.ReadsAnswerAndChangeNothing : Prop :=
  (∀ s : State, s.hears →
    exec .statusRead s = .next (respond 0x01 .done (statusBody s) s)
      ∧ exec .peersRead s = .next (respond 0x05 .done (peersBody s) s)
      ∧ exec .concordRead s = .next (respond 0x06 .done (concordBody s) s)
      ∧ exec .airlogRead s = .next (respond 0x07 .done (airlogBody s) s)
      ∧ exec .zoneRead s = .next (respond 0x22 .done (zoneBody s) s)
      ∧ (∀ b : Byte, 127 < b.toNat → exec (.descRead b) s = .next (respond 0x13 .range [] s))
      ∧ (∀ (b : Byte) (i : DescIndex), b.toNat = i.val →
        exec (.descRead b) s = .next (respond 0x13 .done (descBody i (s.desc i)) s)))
    ∧ (∀ s : State,
      (s.lanes.rotation.length = 4 → (statusBody s).length = 118)
        ∧ (peersBody s).length = 53 ∧ (concordBody s).length = 32
        ∧ (zoneBody s).length = 2 + 6 * s.zone.length ∧ (airlogBody s).length = 1 + 51 * s.dec.log.length)
    ∧ (([RefState.acquiring, .locked, .holdover, .stepping, .expired].map RefState.code = [0, 1, 2, 3, 4]
        ∧ [LeapPlan.none, .insert, .delete].map LeapPlan.code = [0, 1, 2]
        ∧ [KeyState.dormant, .standby, .holding, .yielding, .fenced, .proving].map KeyState.code = [0, 1, 2, 3, 4, 5]
        ∧ [RecordOutcome.pending, .concord, .none].map RecordOutcome.code = [0, 1, 2]
        ∧ [Role.assent, .dissent, .abstain].map Role.code = [0, 1, 2]
        ∧ [Standing.contender, .left, .observer, .blind, .decided].map Standing.code = [0, 1, 2, 3, 4]
        ∧ [LaneState.stopped, .running, .waiting, .starved, .faulted].map LaneState.code = [0, 1, 2, 3, 4])
      ∧ [ReportPoint.frozen, .aired].map ReportPoint.code = [0, 1] ∧ [LaneOrder.fixed, .rotate].map LaneOrder.code = [0, 1]
      ∧ [ZoneState.standard, .summer].map ZoneState.code = [0, 1] ∧ [Owner.controller, .generator].map Owner.code = [0, 1]
      ∧ [Machine.Alignment.aligned, .askew, .dead].map Machine.Alignment.code = [0, 1, 2]
      ∧ [SyncDrive.notDriven, .atStart, .late].map SyncDrive.code = [0, 1, 2]
      ∧ [ShadowOutcome.none, .unanimous, .split].map ShadowOutcome.code = [0, 1, 2]
      ∧ [ObsSymbol.zero, .one, .mark, .split, .blank, .unclear].map ObsSymbol.code = [0, 1, 2, 3, 4, 5]
      ∧ [Status.done, .state, .owner, .range, .full, .format].map Status.code = [0, 1, 2, 3, 4, 5])
    ∧ ∀ s : State,
      let one (n : Nat) : Byte := BitVec.ofNat 8 n
      let two (n : Nat) : List Byte := [one (n / 256), one n]
      let four (n : Nat) : List Byte := [one (n / 16777216), one (n / 65536), one (n / 256), one n]
      let flag (b : Bool) : Byte := if b then 1 else 0
      let none_ (n : Nat) : List Byte := List.replicate n 0xFF
      let opt (o : Option Nat) : Byte := (o.map one).getD 0xFF
      let fourOpt (o : Option Nat) : List Byte := (o.map four).getD (none_ 4)
      let tracker : List Byte :=
        [s.trk.refState.code, flag s.trk.countValid] ++ fourOpt (if s.trk.countValid then some s.trk.minute else none)
          ++ [opt (if s.trk.countValid then some s.trk.second else none)] ++ two s.trk.holdover
          ++ [one s.trk.stepConf, flag s.trk.armed, s.trk.plan.code, flag s.trk.planFrozen]
      let straps : List Byte :=
        [one s.straps.position.val, one s.straps.precedence.val, one s.straps.roll, BitVec.ofInt 8 s.straps.offset,
          s.straps.order.code]
      let key : List Byte :=
        [s.key.state.code, flag s.key.bidBar, opt s.key.pendingTake, flag s.key.pendingRelease, flag s.key.pendingFence,
            one s.key.unsupported, one s.key.askewRun, flag s.key.beaconAbsent, one s.key.listening,
            flag s.key.proof.minute.isSome]
          ++ fourOpt s.key.proof.minute ++ [one s.key.proof.matched, flag s.key.proof.refHeld]
      let draft (o : Option Draft) : List Byte :=
        match o with
        | none => 0 :: none_ 19
        | some d =>
          [1] ++ four d.minute
            ++ (match d.coded with
              | none => [1, 0]
              | some c => [0, one c.symbolCount])
            ++ [flag d.participant, d.refState.code, d.keyState.code]
            ++ (match d.coded with
              | none => none_ 6
              | some c =>
                [flag c.quality, one c.annId, one c.segNo, one c.lastSeg, opt (c.segment.map fun g => g.lane.val),
                  opt (c.segment.map fun g => g.index.val)])
            ++ four d.digest.toNat
      let lane (x : Lane) : List Byte :=
        [x.state.code, opt (x.cursor.map Fin.val), opt (x.start.map Fin.val), one x.airings, opt x.repeats, one x.spacing,
          one x.countdown, x.report.code, opt x.lastSeg]
      let peer (x : PeerRow) : List Byte :=
        [flag x.present, flag x.holding, one x.absentRun, opt x.assentPass, flag x.self]
      let window : List Byte :=
        match s.winRec with
        | none => 0 :: none_ 12
        | some r =>
          [1, opt r.second, r.alignment.code, r.syncDrive.code]
            ++ (match r.offset with
              | none => [0x80, 0x00]
              | some z => two (BitVec.ofInt 16 z).toNat)
            ++ [r.present, r.hold, r.shadow.code, flag r.steady, flag r.quiet, flag r.yieldSet, flag r.bidding]
      let record (o : Option ConcordRecord) : List Byte :=
        match o with
        | none => 0 :: none_ 15
        | some r =>
          [1] ++ four r.minute ++ [r.outcome.code] ++ fourOpt (r.digest.map BitVec.toNat)
            ++ [one r.tally, one r.passesUsed, opt (r.role.map Role.code), r.assenting, opt (r.standing.map Standing.code),
              opt r.nextPass]
      let half (r : AirRecord) (i : Nat) : Nat := ((r.symbols.map ObsSymbol.code)[i]?).getD 15
      let header (o : Option AirHeader) : List Byte :=
        match o with
        | none => none_ 9
        | some h =>
          [one h.minute, one h.hour] ++ two h.dayOfYear
            ++ [one h.yearOfCentury, one h.weekday, one h.annId, one h.segNo, one h.lastSeg]
      let air (r : AirRecord) : List Byte :=
        four r.minute ++ [one r.symbols.length]
          ++ ((List.range 31).map fun i => one (16 * half r (2 * i) + half r (2 * i + 1)))
          ++ [flag r.header.isSome] ++ header r.header
          ++ [flag r.complete, (r.segmentCheck.map flag).getD 0xFF, (r.matchesCurrent.map flag).getD 0xFF, r.keyers,
            flag r.steady]
      statusBody s =
          tracker ++ straps ++ [flag s.req.steady, flag s.req.quiet] ++ key ++ draft s.next ++ draft s.current
            ++ [one s.dec.lastCue.toNat]
            ++ (lane (s.laneAt 0) ++ lane (s.laneAt 1) ++ lane (s.laneAt 2) ++ lane (s.laneAt 3))
            ++ s.lanes.rotation.map (fun l => one l.val) ++ [opt (s.lanes.lastEvent.map Fin.val)]
        ∧ peersBody s =
          peer s.peers[0] ++ peer s.peers[1] ++ peer s.peers[2] ++ peer s.peers[3] ++ peer s.peers[4] ++ peer s.peers[5]
            ++ peer s.peers[6] ++ peer s.peers[7] ++ window
        ∧ concordBody s = record s.nextRec ++ record s.curRec
        ∧ airlogBody s = one s.dec.log.length :: s.dec.log.flatMap air
        ∧ zoneBody s =
          [BitVec.ofInt 8 s.straps.offset, one s.zone.length]
            ++ (s.zone.flatMap fun e => four e.start ++ [e.state.code, flag (decide (s.pastEntry = some e))])
        ∧ ∀ (i : DescIndex) (d : Descriptor), d.cues.length ≤ 2 →
          descBody i d =
            [one i.val, one d.annId, one d.segNo, one d.lastSeg, one d.repeats, flag d.endFlag, opt (d.link.map Fin.val),
                one d.cues.length]
              ++ ((List.range 2).flatMap fun n =>
                match d.cues[n]? with
                | some c => [one c.second, one c.value]
                | none => [0, 0])
              ++ d.payload ++ [d.owner.code, opt (d.claim.map Fin.val)] ++ two d.aired

/-- DESC WRITE is decided in the order index, owner, values (R144), and performed it writes the eight fields alone. -/
def Obligations.DescWriteWritesTheEightFields : Prop :=
  ∀ (b : DescBody) (s : State), s.hears →
    (127 < b.index.toNat → exec (.descWrite b) s = .next (respond 0x10 .range [] s))
      ∧ ∀ i : DescIndex, b.index.toNat = i.val →
        ((s.desc i).owner = .generator → exec (.descWrite b) s = .next (respond 0x10 .owner [] s))
          ∧ ((s.desc i).owner = .controller →
            let cueOk (sec val : Byte) : Prop := 1 ≤ sec.toNat ∧ sec.toNat ≤ 56 ∧ 1 ≤ val.toNat ∧ val.toNat ≤ 15
            let ok : Prop := 1 ≤ b.annId.toNat ∧ b.segNo.toNat ≤ 31 ∧ b.lastSeg.toNat ≤ 31 ∧ b.repeats.toNat ≤ 15
              ∧ b.endFlag.toNat ≤ 1 ∧ (b.next.toNat ≤ 127 ∨ b.next = 0xFF) ∧ b.cueCount.toNat ≤ 2
              ∧ (1 ≤ b.cueCount.toNat → cueOk b.cue1Second b.cue1Value)
              ∧ (b.cueCount = 2 → cueOk b.cue2Second b.cue2Value ∧ b.cue1Second ≠ b.cue2Second)
            (¬ok → exec (.descWrite b) s = .next (respond 0x10 .range [] s))
              ∧ (ok → ∃ d : Descriptor, exec (.descWrite b) s = .next (respond 0x10 .done [] (s.setDesc i d))
                ∧ d.owner = (s.desc i).owner ∧ d.claim = (s.desc i).claim ∧ d.aired = (s.desc i).aired
                ∧ d.annId = b.annId.toNat ∧ d.segNo = b.segNo.toNat ∧ d.lastSeg = b.lastSeg.toNat
                ∧ d.repeats = b.repeats.toNat ∧ d.endFlag = decide (b.endFlag = 1)
                ∧ d.link.map Fin.val = (if b.next = 0xFF then none else some b.next.toNat)
                ∧ d.cues =
                    ([⟨b.cue1Second.toNat, b.cue1Value.toNat⟩, ⟨b.cue2Second.toNat, b.cue2Value.toNat⟩] : List Cue).take
                      b.cueCount.toNat
                ∧ d.payload = b.payload.toList))

/-- DESC HAND makes a descriptor GENERATOR-owned, after its refusals, and the lanes that starve at it arrive again, lowest
first (R145): that one claims it and goes on, with the repeat count copied at the announcement start (R150), and every other
is FAULTED with LANE_FAULT, one of them being the lane of the last lane event (R150, R164). With no lane starving there
nothing else changes. DESC RECALL takes a descriptor back and releases the claim of a STOPPED or FAULTED lane, after its
refusals (R146). -/
def Obligations.DescHandAndRecall : Prop :=
  ∀ (b : Byte) (s : State), s.hears →
    (127 < b.toNat →
      exec (.descHand b) s = .next (respond 0x11 .range [] s) ∧ exec (.descRecall b) s = .next (respond 0x12 .range [] s))
      ∧ ∀ i : DescIndex, b.toNat = i.val →
        let d := s.desc i
        let handed := s.setDesc i { d with owner := .generator }
        let starved (l : LaneNo) : Prop := (s.laneAt l).state = .starved ∧ (s.laneAt l).cursor = some i
        let recalled := respond 0x12 .done [] (s.setDesc i { d with owner := .controller, claim := none })
        (d.lastSeg < d.segNo ∨ d.annId = 0 → exec (.descHand b) s = .next (respond 0x11 .range [] s))
          ∧ (d.segNo ≤ d.lastSeg → d.annId ≠ 0 → d.owner = .generator →
            exec (.descHand b) s = .next (respond 0x11 .owner [] s))
          ∧ (d.segNo ≤ d.lastSeg → d.annId ≠ 0 → d.owner = .controller →
            ((∀ l, ¬starved l) → exec (.descHand b) s = .next (respond 0x11 .done [] handed))
              ∧ ∀ l, starved l → (∀ l', starved l' → l.val ≤ l'.val) → d.claim = none →
                ∃ t, exec (.descHand b) s = .next (respond 0x11 .done [] t)
                  ∧ t = { s with store := t.store, lanes := t.lanes, ev := t.ev }
                  ∧ t.desc i = { d with owner := .generator, claim := some l } ∧ (∀ j, j ≠ i → t.desc j = s.desc j)
                  ∧ t.laneAt l =
                      { s.laneAt l with
                        state := if 0 < (s.laneAt l).countdown then .waiting else .running
                        repeats :=
                          if (s.laneAt l).start = some i ∧ (s.laneAt l).repeats = none then some d.repeats
                          else (s.laneAt l).repeats }
                  ∧ (∀ l', l' ≠ l → starved l' → t.laneAt l' = { s.laneAt l' with state := .faulted })
                  ∧ (∀ l', ¬starved l' → t.laneAt l' = s.laneAt l')
                  ∧ t.lanes.rotation = s.lanes.rotation
                  ∧ ((∀ l', starved l' → l' = l) → t.ev = s.ev ∧ t.lanes.lastEvent = s.lanes.lastEvent)
                  ∧ ((∃ l', l' ≠ l ∧ starved l') →
                    t.ev = (s.raise .laneFault).ev ∧ ∃ m, m ≠ l ∧ starved m ∧ t.lanes.lastEvent = some m))
          ∧ (d.owner = .controller → exec (.descRecall b) s = .next (respond 0x12 .owner [] s))
          ∧ (d.owner = .generator → d.claim = none → exec (.descRecall b) s = .next recalled)
          ∧ (∀ l, d.owner = .generator → d.claim = some l →
            exec (.descRecall b) s =
              .next
                (if (s.laneAt l).state = .stopped ∨ (s.laneAt l).state = .faulted then recalled
                else respond 0x12 .state [] s))

/-- What LANE RESUME makes of the descriptor at the cursor of a STOPPED lane (R150, R161): one that is GENERATOR-owned and
free or the lane's own is claimed, and the lane is WAITING while a countdown is left and RUNNING otherwise, with the repeat
count copied at the first arrival at the announcement start; a CONTROLLER-owned one starves the lane, and one that another
lane claims faults it. In any other state, or with an empty cursor, it is refused STATE. -/
def Obligations.LaneResumeArrives : Prop :=
  ∀ (b : Byte) (s : State), s.hears →
    (3 < b.toNat → exec (.laneResume b) s = .next (respond 0x1A .range [] s))
      ∧ ∀ l : LaneNo, b.toNat = l.val →
        let x := s.laneAt l
        (x.state ≠ .stopped ∨ x.cursor = none → exec (.laneResume b) s = .next (respond 0x1A .state [] s))
          ∧ ∀ i, x.state = .stopped → x.cursor = some i →
            let d := s.desc i
            (d.owner = .generator → d.claim = none ∨ d.claim = some l →
              exec (.laneResume b) s =
                .next
                  (respond 0x1A .done []
                    ((s.setDesc i { d with claim := some l }).setLane l
                      { x with
                        state := if 0 < x.countdown then .waiting else .running
                        repeats :=
                          if x.start = some i ∧ x.repeats = none then some d.repeats else x.repeats })))
              ∧ (d.owner = .controller →
                exec (.laneResume b) s =
                  .next (respond 0x1A .done [] ((s.setLane l { x with state := .starved }).laneEvent l .laneStarved)))
              ∧ (∀ l', d.owner = .generator → d.claim = some l' → l' ≠ l →
                exec (.laneResume b) s =
                  .next (respond 0x1A .done [] ((s.setLane l { x with state := .faulted }).laneEvent l .laneFault)))

/-- LANE STOP makes a lane STOPPED from any state and keeps all else (R161). LANE CLEAR is refused STATE in RUNNING and
WAITING, and otherwise releases the lane's claims and empties it (R162). LANE START is refused RANGE for a head or a report
point out of range and STATE unless the lane is STOPPED or FAULTED (R160). -/
def Obligations.LaneStopClearAndStartRefusals : Prop :=
  ∀ (b head spacing report : Byte) (s : State), s.hears →
    (3 < b.toNat →
      exec (.laneStop b) s = .next (respond 0x19 .range [] s)
        ∧ exec (.laneClear b) s = .next (respond 0x1B .range [] s)
        ∧ exec (.laneStart b head spacing report) s = .next (respond 0x18 .range [] s))
      ∧ ∀ l : LaneNo, b.toNat = l.val →
        let x := s.laneAt l
        exec (.laneStop b) s = .next (respond 0x19 .done [] (s.setLane l { x with state := .stopped }))
          ∧ (x.state = .running ∨ x.state = .waiting →
            exec (.laneClear b) s = .next (respond 0x1B .state [] s))
          ∧ (x.state ≠ .running → x.state ≠ .waiting → ∃ t,
            exec (.laneClear b) s = .next (respond 0x1B .done [] t)
              ∧ t.laneAt l = ⟨.stopped, none, none, 0, none, x.spacing, 0, x.report, none⟩
              ∧ (∀ l', l' ≠ l → t.laneAt l' = s.laneAt l')
              ∧ (∀ i, t.desc i = if (s.desc i).claim = some l then { s.desc i with claim := none } else s.desc i)
              ∧ t = { s with store := t.store, lanes := { s.lanes with lane := t.lanes.lane } })
          ∧ (127 < head.toNat ∨ 1 < report.toNat →
            exec (.laneStart b head spacing report) s = .next (respond 0x18 .range [] s))
          ∧ (head.toNat ≤ 127 → report.toNat ≤ 1 → x.state ≠ .stopped → x.state ≠ .faulted →
            exec (.laneStart b head spacing report) s = .next (respond 0x18 .state [] s))

/-- LANE START of a STOPPED or FAULTED lane: the lane's claims are released, the announcement is set up at the head with the
given spacing and report point, and the lane arrives there (R150, R160). -/
def Obligations.LaneStartSetsUpTheAnnouncement : Prop :=
  ∀ (b head spacing report : Byte) (l : LaneNo) (i : DescIndex) (s : State), s.hears → b.toNat = l.val →
    head.toNat = i.val → report.toNat ≤ 1 → (s.laneAt l).state = .stopped ∨ (s.laneAt l).state = .faulted →
    let d := s.desc i
    let freed (j : DescIndex) : Descriptor :=
      if (s.desc j).claim = some l then { s.desc j with claim := none } else s.desc j
    let point : ReportPoint := if report = 0 then .frozen else .aired
    let set (st : LaneState) (repeats : Option Nat) : Lane :=
      ⟨st, some i, some i, 0, repeats, spacing.toNat, 0, point, none⟩
    ∃ t, exec (.laneStart b head spacing report) s = .next (respond 0x18 .done [] t)
      ∧ (∀ l', l' ≠ l → t.laneAt l' = s.laneAt l')
      ∧ (∀ j, j ≠ i → t.desc j = freed j)
      ∧ (d.owner = .generator → d.claim = none ∨ d.claim = some l →
        t.laneAt l = set .running (some d.repeats) ∧ t.desc i = { d with claim := some l } ∧ t.ev = s.ev)
      ∧ (d.owner = .controller →
        t.laneAt l = set .starved none ∧ t.desc i = freed i ∧ t.ev = (s.raise .laneStarved).ev
          ∧ t.lanes.lastEvent = some l)
      ∧ (∀ l', d.owner = .generator → d.claim = some l' → l' ≠ l →
        t.laneAt l = set .faulted none ∧ t.desc i = d ∧ t.ev = (s.raise .laneFault).ev ∧ t.lanes.lastEvent = some l)

/-- ZONE ADD takes the first case of R47 that applies, and ZONE REMOVE the cases of R48: refused STATE while the count is
invalid, RANGE in the stated cases, FULL for a full table; performed, an entry is put in order of instant, in place of the
past entry when its instant is at or before the current minute, or removed. -/
def Obligations.ZoneAddAndRemove : Prop :=
  ∀ (start : Word32) (z : Byte) (s : State), s.hears → s.zoneOk → s.pastOk →
    let c := s.trk.minute
    let n := start.toNat
    let taken := ∃ e ∈ s.zone, e.start = n
    let near := n = c + 1 ∨ n = c + 2
    let add (st : Status) (table : List ZoneEntry) : Prop :=
      exec (.zoneAdd start z) s = .next (respond 0x20 st [] { s with zone := table })
    let remove (st : Status) (table : List ZoneEntry) : Prop :=
      exec (.zoneRemove start) s = .next (respond 0x21 st [] { s with zone := table })
    let refused := 52595999 < n ∨ 1 < z.toNat ∨ taken ∨ near ∨ (∃ p, s.pastEntry = some p ∧ n ≤ c ∧ n < p.start)
    (s.trk.countValid = false → add .state s.zone ∧ remove .state s.zone)
      ∧ (s.trk.countValid = true →
        (refused → add .range s.zone)
          ∧ (¬refused → ∀ p, s.pastEntry = some p → n ≤ c →
            ∃ table, add .done table
              ∧ (∀ e, e ∈ table ↔ (e = ⟨n, if z = 0 then .standard else .summer⟩ ∨ (e ∈ s.zone ∧ e ≠ p)))
              ∧ ({ s with zone := table } : State).pastEntry = some ⟨n, if z = 0 then .standard else .summer⟩
              ∧ table.Pairwise (fun a b => a.start < b.start) ∧ table.length = s.zone.length)
          ∧ (¬refused → s.pastEntry = none ∨ c < n → s.zone.length = 16 → add .full s.zone)
          ∧ (¬refused → s.pastEntry = none ∨ c < n → s.zone.length < 16 →
            ∃ table, add .done table
              ∧ (∀ e, e ∈ table ↔ (e = ⟨n, if z = 0 then .standard else .summer⟩ ∨ e ∈ s.zone))
              ∧ ({ s with zone := table } : State).pastEntry =
                  (if n ≤ c then some ⟨n, if z = 0 then .standard else .summer⟩ else s.pastEntry)
              ∧ table.Pairwise (fun a b => a.start < b.start) ∧ table.length = s.zone.length + 1)
          ∧ (¬taken ∨ near → remove .range s.zone)
          ∧ (taken → ¬near → remove .done (s.zone.filter fun e => decide (e.start ≠ n))))

/-- REQUEST SET sets both local requests, or refuses RANGE for a value that is neither on nor off; a STEADY or
QUIET cell in progress is driven with the new value before its sample point, and no other cell is (R86). KEY YIELD makes a
HOLDING unit YIELDING and is refused STATE in every other key state (R111). READMIT moves a FENCED unit to PROVING with its
proof progress reset, and is refused STATE in every other key state (R118). -/
def Obligations.RequestYieldAndReadmitCommands : Prop :=
  ∀ (x y : Byte) (s : State), s.hears →
    (x.toNat ≤ 1 → y.toNat ≤ 1 → ∃ w : Window,
      exec (.requestSet x y) s =
          .next (respond 0x28 .done [] { s with req := ⟨decide (x = 1), decide (y = 1)⟩, win := w })
        ∧ (s.win.phase = .over ∨ s.win.sampled = true ∨ (s.win.cell ≠ 18 ∧ s.win.cell ≠ 19) → w = s.win)
        ∧ w = { s.win with pullCca := w.pullCca, driveCco := w.driveCco }
        ∧ (∀ a, s.win.phase ≠ .over → s.win.alignment = some .aligned → s.win.atStart = some a →
          s.win.sampled = false →
          (s.win.cell = 18 → w.driveCco = (a.standing && decide (x = 1)) ∧ w.pullCca = (a.standing && decide (x = 0)))
            ∧ (s.win.cell = 19 → w.driveCco = (a.standing && decide (y = 1)) ∧ w.pullCca = false)))
      ∧ (1 < x.toNat ∨ 1 < y.toNat → exec (.requestSet x y) s = .next (respond 0x28 .range [] s))
      ∧ (s.key.state = .holding →
        exec .keyYield s = .next (respond 0x30 .done [] { s with key := { s.key with state := .yielding } }))
      ∧ (s.key.state ≠ .holding → exec .keyYield s = .next (respond 0x30 .state [] s))
      ∧ (s.key.state = .fenced →
        exec .readmit s =
          .next
            (respond 0x31 .done []
              { s with
                key :=
                  { s.key with
                    state := .proving
                    proof := { minute := none, running := false, matched := 0, missed := false, refHeld := true } } }))
      ∧ (s.key.state ≠ .fenced → exec .readmit s = .next (respond 0x31 .state [] s))

/-! ### What every step keeps -/

/-- A CONTROLLER-owned descriptor is claimed by no lane, and no field of a descriptor other than owner, claim and aired count
changes while its owner is GENERATOR (R143): every step keeps the one, and every step but a supply or RSTN row the other. -/
def Obligations.MessageStoreIsKept : Prop :=
  ∀ s t : State, step s = .next t →
    (s.storeOk → t.storeOk)
      ∧ ((∀ c ∈ s.pending.head?, c ∉ [Instr.powerOn, .rstnAssert, .rstnRelease, .supplyLoss]) →
        ∀ i, (s.desc i).owner = .generator → (s.desc i).sameContent (t.desc i))

/-- The unit drives KYL, KYA or KYR only with its drivers enabled, which they are only in HOLDING or YIELDING (R104), and
only in a minute whose CURRENT draft is CODED, whose record is CONCORD and in which its role is ASSENT (R105): every step
keeps it. -/
def Obligations.KeyingConditionIsKept : Prop :=
  ∀ s t : State, s.keyingOk → step s = .next t → t.keyingOk

/-- The zone table stays in order of instant with distinct instants and at most 16 entries, and at most one entry is past while
the count is valid (3.2, R38): every step keeps it. -/
def Obligations.ZoneTableIsKept : Prop :=
  ∀ s t : State, s.zoneOk → s.pastOk → step s = .next t → t.zoneOk ∧ t.pastOk

/-- A concord record holds a digest exactly when its outcome is CONCORD, with a tally of at least the quorum (R89, R94), and
drafts and records are held in pairs of one minute (R89, R101, R102): every step keeps it. -/
def Obligations.ConcordRecordsAreKept : Prop :=
  ∀ s t : State, s.recordsOk → s.pairsOk → step s = .next t → t.recordsOk ∧ t.pairsOk

/-- A lane's airings done stay within its repeats when that count is not 0 (R156), the rotation order stays a list of the four
lane numbers, each once (R149), bit 23 of the latches and of the mask stays 0 (R183, R184), and the air log keeps at most 8
records in order of minute (R138): every step keeps each. -/
def Obligations.LaneEventAndAirLogConditionsAreKept : Prop :=
  ∀ s t : State, step s = .next t →
    (s.airingsOk → t.airingsOk) ∧ (s.rotationOk → t.rotationOk) ∧ (s.eventsOk → t.eventsOk) ∧ (s.logOk → t.logOk)

/-- The conditions that every step keeps hold at the power-on values. -/
def Obligations.ConditionsHoldAtReset : Prop :=
  let s := State.reset
  s.storeOk ∧ s.keyingOk ∧ s.zoneOk ∧ s.pastOk ∧ s.recordsOk ∧ s.pairsOk ∧ s.airingsOk ∧ s.rotationOk ∧ s.eventsOk
    ∧ s.logOk
end

