-- ==== Sys2Proof/Laws/State.lean ====
section
/-! SUPPORT. One lemma per field for each named update of the state, so that no proof unfolds a record update. -/

namespace Sys2Proof.Machine

/-! ### State.raise -/

@[simp] theorem State.raise_pending (e : Event) (s : State) : (s.raise e).pending = s.pending := rfl

@[simp] theorem State.raise_freeIdx (e : Event) (s : State) : (s.raise e).freeIdx = s.freeIdx := rfl

@[simp] theorem State.raise_handedOver (e : Event) (s : State) : (s.raise e).handedOver = s.handedOver := rfl

@[simp] theorem State.raise_pwr (e : Event) (s : State) : (s.raise e).pwr = s.pwr := rfl

@[simp] theorem State.raise_straps (e : Event) (s : State) : (s.raise e).straps = s.straps := rfl

@[simp] theorem State.raise_trk (e : Event) (s : State) : (s.raise e).trk = s.trk := rfl

@[simp] theorem State.raise_zone (e : Event) (s : State) : (s.raise e).zone = s.zone := rfl

@[simp] theorem State.raise_store (e : Event) (s : State) : (s.raise e).store = s.store := rfl

@[simp] theorem State.raise_lanes (e : Event) (s : State) : (s.raise e).lanes = s.lanes := rfl

@[simp] theorem State.raise_next (e : Event) (s : State) : (s.raise e).next = s.next := rfl

@[simp] theorem State.raise_current (e : Event) (s : State) : (s.raise e).current = s.current := rfl

@[simp] theorem State.raise_nextRec (e : Event) (s : State) : (s.raise e).nextRec = s.nextRec := rfl

@[simp] theorem State.raise_curRec (e : Event) (s : State) : (s.raise e).curRec = s.curRec := rfl

@[simp] theorem State.raise_win (e : Event) (s : State) : (s.raise e).win = s.win := rfl

@[simp] theorem State.raise_winRec (e : Event) (s : State) : (s.raise e).winRec = s.winRec := rfl

@[simp] theorem State.raise_peers (e : Event) (s : State) : (s.raise e).peers = s.peers := rfl

@[simp] theorem State.raise_req (e : Event) (s : State) : (s.raise e).req = s.req := rfl

@[simp] theorem State.raise_key (e : Event) (s : State) : (s.raise e).key = s.key := rfl

@[simp] theorem State.raise_keying (e : Event) (s : State) : (s.raise e).keying = s.keying := rfl

@[simp] theorem State.raise_dec (e : Event) (s : State) : (s.raise e).dec = s.dec := rfl

@[simp] theorem State.raise_link (e : Event) (s : State) : (s.raise e).link = s.link := rfl

@[simp] theorem State.raise_ev (e : Event) (s : State) :
    (s.raise e).ev = { s.ev with latches := s.ev.latches ||| e.bit } := rfl

/-! ### State.raiseIf -/

@[simp] theorem State.raiseIf_pending (c : Bool) (e : Event) (s : State) :
    (s.raiseIf c e).pending = s.pending := by cases c <;> rfl

@[simp] theorem State.raiseIf_freeIdx (c : Bool) (e : Event) (s : State) :
    (s.raiseIf c e).freeIdx = s.freeIdx := by cases c <;> rfl

@[simp] theorem State.raiseIf_handedOver (c : Bool) (e : Event) (s : State) :
    (s.raiseIf c e).handedOver = s.handedOver := by cases c <;> rfl

@[simp] theorem State.raiseIf_pwr (c : Bool) (e : Event) (s : State) :
    (s.raiseIf c e).pwr = s.pwr := by cases c <;> rfl

@[simp] theorem State.raiseIf_straps (c : Bool) (e : Event) (s : State) :
    (s.raiseIf c e).straps = s.straps := by cases c <;> rfl

@[simp] theorem State.raiseIf_trk (c : Bool) (e : Event) (s : State) :
    (s.raiseIf c e).trk = s.trk := by cases c <;> rfl

@[simp] theorem State.raiseIf_zone (c : Bool) (e : Event) (s : State) :
    (s.raiseIf c e).zone = s.zone := by cases c <;> rfl

@[simp] theorem State.raiseIf_store (c : Bool) (e : Event) (s : State) :
    (s.raiseIf c e).store = s.store := by cases c <;> rfl

@[simp] theorem State.raiseIf_lanes (c : Bool) (e : Event) (s : State) :
    (s.raiseIf c e).lanes = s.lanes := by cases c <;> rfl

@[simp] theorem State.raiseIf_next (c : Bool) (e : Event) (s : State) :
    (s.raiseIf c e).next = s.next := by cases c <;> rfl

@[simp] theorem State.raiseIf_current (c : Bool) (e : Event) (s : State) :
    (s.raiseIf c e).current = s.current := by cases c <;> rfl

@[simp] theorem State.raiseIf_nextRec (c : Bool) (e : Event) (s : State) :
    (s.raiseIf c e).nextRec = s.nextRec := by cases c <;> rfl

@[simp] theorem State.raiseIf_curRec (c : Bool) (e : Event) (s : State) :
    (s.raiseIf c e).curRec = s.curRec := by cases c <;> rfl

@[simp] theorem State.raiseIf_win (c : Bool) (e : Event) (s : State) :
    (s.raiseIf c e).win = s.win := by cases c <;> rfl

@[simp] theorem State.raiseIf_winRec (c : Bool) (e : Event) (s : State) :
    (s.raiseIf c e).winRec = s.winRec := by cases c <;> rfl

@[simp] theorem State.raiseIf_peers (c : Bool) (e : Event) (s : State) :
    (s.raiseIf c e).peers = s.peers := by cases c <;> rfl

@[simp] theorem State.raiseIf_req (c : Bool) (e : Event) (s : State) :
    (s.raiseIf c e).req = s.req := by cases c <;> rfl

@[simp] theorem State.raiseIf_key (c : Bool) (e : Event) (s : State) :
    (s.raiseIf c e).key = s.key := by cases c <;> rfl

@[simp] theorem State.raiseIf_keying (c : Bool) (e : Event) (s : State) :
    (s.raiseIf c e).keying = s.keying := by cases c <;> rfl

@[simp] theorem State.raiseIf_dec (c : Bool) (e : Event) (s : State) :
    (s.raiseIf c e).dec = s.dec := by cases c <;> rfl

@[simp] theorem State.raiseIf_link (c : Bool) (e : Event) (s : State) :
    (s.raiseIf c e).link = s.link := by cases c <;> rfl

@[simp] theorem State.raiseIf_ev (c : Bool) (e : Event) (s : State) :
    (s.raiseIf c e).ev = if c then { s.ev with latches := s.ev.latches ||| e.bit } else s.ev := by cases c <;> rfl

/-! ### State.recordBus -/

@[simp] theorem State.recordBus_pending (t : Instant) (s : State) : (s.recordBus t).pending = s.pending := rfl

@[simp] theorem State.recordBus_freeIdx (t : Instant) (s : State) : (s.recordBus t).freeIdx = s.freeIdx := rfl

@[simp] theorem State.recordBus_handedOver (t : Instant) (s : State) : (s.recordBus t).handedOver = s.handedOver := rfl

@[simp] theorem State.recordBus_pwr (t : Instant) (s : State) : (s.recordBus t).pwr = s.pwr := rfl

@[simp] theorem State.recordBus_straps (t : Instant) (s : State) : (s.recordBus t).straps = s.straps := rfl

@[simp] theorem State.recordBus_trk (t : Instant) (s : State) : (s.recordBus t).trk = s.trk := rfl

@[simp] theorem State.recordBus_zone (t : Instant) (s : State) : (s.recordBus t).zone = s.zone := rfl

@[simp] theorem State.recordBus_store (t : Instant) (s : State) : (s.recordBus t).store = s.store := rfl

@[simp] theorem State.recordBus_lanes (t : Instant) (s : State) : (s.recordBus t).lanes = s.lanes := rfl

@[simp] theorem State.recordBus_next (t : Instant) (s : State) : (s.recordBus t).next = s.next := rfl

@[simp] theorem State.recordBus_current (t : Instant) (s : State) : (s.recordBus t).current = s.current := rfl

@[simp] theorem State.recordBus_nextRec (t : Instant) (s : State) : (s.recordBus t).nextRec = s.nextRec := rfl

@[simp] theorem State.recordBus_curRec (t : Instant) (s : State) : (s.recordBus t).curRec = s.curRec := rfl

@[simp] theorem State.recordBus_win (t : Instant) (s : State) : (s.recordBus t).win = s.win := rfl

@[simp] theorem State.recordBus_winRec (t : Instant) (s : State) : (s.recordBus t).winRec = s.winRec := rfl

@[simp] theorem State.recordBus_peers (t : Instant) (s : State) : (s.recordBus t).peers = s.peers := rfl

@[simp] theorem State.recordBus_req (t : Instant) (s : State) : (s.recordBus t).req = s.req := rfl

@[simp] theorem State.recordBus_key (t : Instant) (s : State) : (s.recordBus t).key = s.key := rfl

@[simp] theorem State.recordBus_keying (t : Instant) (s : State) : (s.recordBus t).keying = s.keying := rfl

@[simp] theorem State.recordBus_dec (t : Instant) (s : State) :
    (s.recordBus t).dec = { s.dec with busTrace := s.dec.busTrace ++ [⟨t, busLines s.keying⟩] } := rfl

@[simp] theorem State.recordBus_link (t : Instant) (s : State) : (s.recordBus t).link = s.link := rfl

@[simp] theorem State.recordBus_ev (t : Instant) (s : State) : (s.recordBus t).ev = s.ev := rfl

/-! ### State.recordLoop -/

@[simp] theorem State.recordLoop_pending (t : Instant) (s : State) : (s.recordLoop t).pending = s.pending := rfl

@[simp] theorem State.recordLoop_freeIdx (t : Instant) (s : State) : (s.recordLoop t).freeIdx = s.freeIdx := rfl

@[simp] theorem State.recordLoop_handedOver (t : Instant) (s : State) : (s.recordLoop t).handedOver = s.handedOver := rfl

@[simp] theorem State.recordLoop_pwr (t : Instant) (s : State) : (s.recordLoop t).pwr = s.pwr := rfl

@[simp] theorem State.recordLoop_straps (t : Instant) (s : State) : (s.recordLoop t).straps = s.straps := rfl

@[simp] theorem State.recordLoop_trk (t : Instant) (s : State) : (s.recordLoop t).trk = s.trk := rfl

@[simp] theorem State.recordLoop_zone (t : Instant) (s : State) : (s.recordLoop t).zone = s.zone := rfl

@[simp] theorem State.recordLoop_store (t : Instant) (s : State) : (s.recordLoop t).store = s.store := rfl

@[simp] theorem State.recordLoop_lanes (t : Instant) (s : State) : (s.recordLoop t).lanes = s.lanes := rfl

@[simp] theorem State.recordLoop_next (t : Instant) (s : State) : (s.recordLoop t).next = s.next := rfl

@[simp] theorem State.recordLoop_current (t : Instant) (s : State) : (s.recordLoop t).current = s.current := rfl

@[simp] theorem State.recordLoop_nextRec (t : Instant) (s : State) : (s.recordLoop t).nextRec = s.nextRec := rfl

@[simp] theorem State.recordLoop_curRec (t : Instant) (s : State) : (s.recordLoop t).curRec = s.curRec := rfl

@[simp] theorem State.recordLoop_win (t : Instant) (s : State) : (s.recordLoop t).win = s.win := rfl

@[simp] theorem State.recordLoop_winRec (t : Instant) (s : State) : (s.recordLoop t).winRec = s.winRec := rfl

@[simp] theorem State.recordLoop_peers (t : Instant) (s : State) : (s.recordLoop t).peers = s.peers := rfl

@[simp] theorem State.recordLoop_req (t : Instant) (s : State) : (s.recordLoop t).req = s.req := rfl

@[simp] theorem State.recordLoop_key (t : Instant) (s : State) : (s.recordLoop t).key = s.key := rfl

@[simp] theorem State.recordLoop_keying (t : Instant) (s : State) : (s.recordLoop t).keying = s.keying := rfl

@[simp] theorem State.recordLoop_dec (t : Instant) (s : State) :
    (s.recordLoop t).dec = { s.dec with loopTrace := s.dec.loopTrace ++ [⟨t, s.keying.loop⟩] } := rfl

@[simp] theorem State.recordLoop_link (t : Instant) (s : State) : (s.recordLoop t).link = s.link := rfl

@[simp] theorem State.recordLoop_ev (t : Instant) (s : State) : (s.recordLoop t).ev = s.ev := rfl

/-! ### State.driveBus -/

@[simp] theorem State.driveBus_pending (t : Instant) (l : KeyingLines) (s : State) :
    (s.driveBus t l).pending = s.pending := by unfold State.driveBus; split <;> rfl

@[simp] theorem State.driveBus_freeIdx (t : Instant) (l : KeyingLines) (s : State) :
    (s.driveBus t l).freeIdx = s.freeIdx := by unfold State.driveBus; split <;> rfl

@[simp] theorem State.driveBus_handedOver (t : Instant) (l : KeyingLines) (s : State) :
    (s.driveBus t l).handedOver = s.handedOver := by unfold State.driveBus; split <;> rfl

@[simp] theorem State.driveBus_pwr (t : Instant) (l : KeyingLines) (s : State) :
    (s.driveBus t l).pwr = s.pwr := by unfold State.driveBus; split <;> rfl

@[simp] theorem State.driveBus_straps (t : Instant) (l : KeyingLines) (s : State) :
    (s.driveBus t l).straps = s.straps := by unfold State.driveBus; split <;> rfl

@[simp] theorem State.driveBus_trk (t : Instant) (l : KeyingLines) (s : State) :
    (s.driveBus t l).trk = s.trk := by unfold State.driveBus; split <;> rfl

@[simp] theorem State.driveBus_zone (t : Instant) (l : KeyingLines) (s : State) :
    (s.driveBus t l).zone = s.zone := by unfold State.driveBus; split <;> rfl

@[simp] theorem State.driveBus_store (t : Instant) (l : KeyingLines) (s : State) :
    (s.driveBus t l).store = s.store := by unfold State.driveBus; split <;> rfl

@[simp] theorem State.driveBus_lanes (t : Instant) (l : KeyingLines) (s : State) :
    (s.driveBus t l).lanes = s.lanes := by unfold State.driveBus; split <;> rfl

@[simp] theorem State.driveBus_next (t : Instant) (l : KeyingLines) (s : State) :
    (s.driveBus t l).next = s.next := by unfold State.driveBus; split <;> rfl

@[simp] theorem State.driveBus_current (t : Instant) (l : KeyingLines) (s : State) :
    (s.driveBus t l).current = s.current := by unfold State.driveBus; split <;> rfl

@[simp] theorem State.driveBus_nextRec (t : Instant) (l : KeyingLines) (s : State) :
    (s.driveBus t l).nextRec = s.nextRec := by unfold State.driveBus; split <;> rfl

@[simp] theorem State.driveBus_curRec (t : Instant) (l : KeyingLines) (s : State) :
    (s.driveBus t l).curRec = s.curRec := by unfold State.driveBus; split <;> rfl

@[simp] theorem State.driveBus_win (t : Instant) (l : KeyingLines) (s : State) :
    (s.driveBus t l).win = s.win := by unfold State.driveBus; split <;> rfl

@[simp] theorem State.driveBus_winRec (t : Instant) (l : KeyingLines) (s : State) :
    (s.driveBus t l).winRec = s.winRec := by unfold State.driveBus; split <;> rfl

@[simp] theorem State.driveBus_peers (t : Instant) (l : KeyingLines) (s : State) :
    (s.driveBus t l).peers = s.peers := by unfold State.driveBus; split <;> rfl

@[simp] theorem State.driveBus_req (t : Instant) (l : KeyingLines) (s : State) :
    (s.driveBus t l).req = s.req := by unfold State.driveBus; split <;> rfl

@[simp] theorem State.driveBus_key (t : Instant) (l : KeyingLines) (s : State) :
    (s.driveBus t l).key = s.key := by unfold State.driveBus; split <;> rfl

@[simp] theorem State.driveBus_link (t : Instant) (l : KeyingLines) (s : State) :
    (s.driveBus t l).link = s.link := by unfold State.driveBus; split <;> rfl

@[simp] theorem State.driveBus_ev (t : Instant) (l : KeyingLines) (s : State) :
    (s.driveBus t l).ev = s.ev := by unfold State.driveBus; split <;> rfl

/-! ### State.driveLoop -/

@[simp] theorem State.driveLoop_pending (t : Instant) (l : KeyingLines) (s : State) :
    (s.driveLoop t l).pending = s.pending := by unfold State.driveLoop; split <;> rfl

@[simp] theorem State.driveLoop_freeIdx (t : Instant) (l : KeyingLines) (s : State) :
    (s.driveLoop t l).freeIdx = s.freeIdx := by unfold State.driveLoop; split <;> rfl

@[simp] theorem State.driveLoop_handedOver (t : Instant) (l : KeyingLines) (s : State) :
    (s.driveLoop t l).handedOver = s.handedOver := by unfold State.driveLoop; split <;> rfl

@[simp] theorem State.driveLoop_pwr (t : Instant) (l : KeyingLines) (s : State) :
    (s.driveLoop t l).pwr = s.pwr := by unfold State.driveLoop; split <;> rfl

@[simp] theorem State.driveLoop_straps (t : Instant) (l : KeyingLines) (s : State) :
    (s.driveLoop t l).straps = s.straps := by unfold State.driveLoop; split <;> rfl

@[simp] theorem State.driveLoop_trk (t : Instant) (l : KeyingLines) (s : State) :
    (s.driveLoop t l).trk = s.trk := by unfold State.driveLoop; split <;> rfl

@[simp] theorem State.driveLoop_zone (t : Instant) (l : KeyingLines) (s : State) :
    (s.driveLoop t l).zone = s.zone := by unfold State.driveLoop; split <;> rfl

@[simp] theorem State.driveLoop_store (t : Instant) (l : KeyingLines) (s : State) :
    (s.driveLoop t l).store = s.store := by unfold State.driveLoop; split <;> rfl

@[simp] theorem State.driveLoop_lanes (t : Instant) (l : KeyingLines) (s : State) :
    (s.driveLoop t l).lanes = s.lanes := by unfold State.driveLoop; split <;> rfl

@[simp] theorem State.driveLoop_next (t : Instant) (l : KeyingLines) (s : State) :
    (s.driveLoop t l).next = s.next := by unfold State.driveLoop; split <;> rfl

@[simp] theorem State.driveLoop_current (t : Instant) (l : KeyingLines) (s : State) :
    (s.driveLoop t l).current = s.current := by unfold State.driveLoop; split <;> rfl

@[simp] theorem State.driveLoop_nextRec (t : Instant) (l : KeyingLines) (s : State) :
    (s.driveLoop t l).nextRec = s.nextRec := by unfold State.driveLoop; split <;> rfl

@[simp] theorem State.driveLoop_curRec (t : Instant) (l : KeyingLines) (s : State) :
    (s.driveLoop t l).curRec = s.curRec := by unfold State.driveLoop; split <;> rfl

@[simp] theorem State.driveLoop_win (t : Instant) (l : KeyingLines) (s : State) :
    (s.driveLoop t l).win = s.win := by unfold State.driveLoop; split <;> rfl

@[simp] theorem State.driveLoop_winRec (t : Instant) (l : KeyingLines) (s : State) :
    (s.driveLoop t l).winRec = s.winRec := by unfold State.driveLoop; split <;> rfl

@[simp] theorem State.driveLoop_peers (t : Instant) (l : KeyingLines) (s : State) :
    (s.driveLoop t l).peers = s.peers := by unfold State.driveLoop; split <;> rfl

@[simp] theorem State.driveLoop_req (t : Instant) (l : KeyingLines) (s : State) :
    (s.driveLoop t l).req = s.req := by unfold State.driveLoop; split <;> rfl

@[simp] theorem State.driveLoop_key (t : Instant) (l : KeyingLines) (s : State) :
    (s.driveLoop t l).key = s.key := by unfold State.driveLoop; split <;> rfl

@[simp] theorem State.driveLoop_link (t : Instant) (l : KeyingLines) (s : State) :
    (s.driveLoop t l).link = s.link := by unfold State.driveLoop; split <;> rfl

@[simp] theorem State.driveLoop_ev (t : Instant) (l : KeyingLines) (s : State) :
    (s.driveLoop t l).ev = s.ev := by unfold State.driveLoop; split <;> rfl

@[simp] theorem State.driveBus_keying (t : Instant) (l : KeyingLines) (s : State) :
    (s.driveBus t l).keying = { s.keying with own := l } := by
  unfold State.driveBus; split
  · rename_i h; rw [← h]
  · rfl

@[simp] theorem State.driveLoop_keying (t : Instant) (l : KeyingLines) (s : State) :
    (s.driveLoop t l).keying = { s.keying with loop := l } := by
  unfold State.driveLoop; split
  · rename_i h; rw [← h]
  · rfl

/-! ### State.releaseKeying -/

@[simp] theorem State.releaseKeying_pending (t : Instant) (s : State) :
    (s.releaseKeying t).pending = s.pending := by
  simp [State.releaseKeying]

@[simp] theorem State.releaseKeying_freeIdx (t : Instant) (s : State) :
    (s.releaseKeying t).freeIdx = s.freeIdx := by
  simp [State.releaseKeying]

@[simp] theorem State.releaseKeying_handedOver (t : Instant) (s : State) :
    (s.releaseKeying t).handedOver = s.handedOver := by
  simp [State.releaseKeying]

@[simp] theorem State.releaseKeying_pwr (t : Instant) (s : State) : (s.releaseKeying t).pwr = s.pwr := by
  simp [State.releaseKeying]

@[simp] theorem State.releaseKeying_straps (t : Instant) (s : State) : (s.releaseKeying t).straps = s.straps := by
  simp [State.releaseKeying]

@[simp] theorem State.releaseKeying_trk (t : Instant) (s : State) : (s.releaseKeying t).trk = s.trk := by
  simp [State.releaseKeying]

@[simp] theorem State.releaseKeying_zone (t : Instant) (s : State) : (s.releaseKeying t).zone = s.zone := by
  simp [State.releaseKeying]

@[simp] theorem State.releaseKeying_store (t : Instant) (s : State) : (s.releaseKeying t).store = s.store := by
  simp [State.releaseKeying]

@[simp] theorem State.releaseKeying_lanes (t : Instant) (s : State) : (s.releaseKeying t).lanes = s.lanes := by
  simp [State.releaseKeying]

@[simp] theorem State.releaseKeying_next (t : Instant) (s : State) : (s.releaseKeying t).next = s.next := by
  simp [State.releaseKeying]

@[simp] theorem State.releaseKeying_current (t : Instant) (s : State) :
    (s.releaseKeying t).current = s.current := by
  simp [State.releaseKeying]

@[simp] theorem State.releaseKeying_nextRec (t : Instant) (s : State) :
    (s.releaseKeying t).nextRec = s.nextRec := by
  simp [State.releaseKeying]

@[simp] theorem State.releaseKeying_curRec (t : Instant) (s : State) : (s.releaseKeying t).curRec = s.curRec := by
  simp [State.releaseKeying]

@[simp] theorem State.releaseKeying_win (t : Instant) (s : State) : (s.releaseKeying t).win = s.win := by
  simp [State.releaseKeying]

@[simp] theorem State.releaseKeying_winRec (t : Instant) (s : State) : (s.releaseKeying t).winRec = s.winRec := by
  simp [State.releaseKeying]

@[simp] theorem State.releaseKeying_peers (t : Instant) (s : State) : (s.releaseKeying t).peers = s.peers := by
  simp [State.releaseKeying]

@[simp] theorem State.releaseKeying_req (t : Instant) (s : State) : (s.releaseKeying t).req = s.req := by
  simp [State.releaseKeying]

@[simp] theorem State.releaseKeying_key (t : Instant) (s : State) : (s.releaseKeying t).key = s.key := by
  simp [State.releaseKeying]

@[simp] theorem State.releaseKeying_keying (t : Instant) (s : State) :
    (s.releaseKeying t).keying = { s.keying with own := linesReleased, loop := linesReleased } := by
  simp [State.releaseKeying]

@[simp] theorem State.releaseKeying_link (t : Instant) (s : State) : (s.releaseKeying t).link = s.link := by
  simp [State.releaseKeying]

@[simp] theorem State.releaseKeying_ev (t : Instant) (s : State) : (s.releaseKeying t).ev = s.ev := by
  simp [State.releaseKeying]

/-! ### State.setDesc -/

@[simp] theorem State.setDesc_pending (i : DescIndex) (d : Descriptor) (s : State) :
    (s.setDesc i d).pending = s.pending := rfl

@[simp] theorem State.setDesc_freeIdx (i : DescIndex) (d : Descriptor) (s : State) :
    (s.setDesc i d).freeIdx = s.freeIdx := rfl

@[simp] theorem State.setDesc_handedOver (i : DescIndex) (d : Descriptor) (s : State) :
    (s.setDesc i d).handedOver = s.handedOver := rfl

@[simp] theorem State.setDesc_pwr (i : DescIndex) (d : Descriptor) (s : State) : (s.setDesc i d).pwr = s.pwr := rfl

@[simp] theorem State.setDesc_straps (i : DescIndex) (d : Descriptor) (s : State) :
    (s.setDesc i d).straps = s.straps := rfl

@[simp] theorem State.setDesc_trk (i : DescIndex) (d : Descriptor) (s : State) : (s.setDesc i d).trk = s.trk := rfl

@[simp] theorem State.setDesc_zone (i : DescIndex) (d : Descriptor) (s : State) :
    (s.setDesc i d).zone = s.zone := rfl

@[simp] theorem State.setDesc_store (i : DescIndex) (d : Descriptor) (s : State) :
    (s.setDesc i d).store = s.store.set i d := rfl

@[simp] theorem State.setDesc_lanes (i : DescIndex) (d : Descriptor) (s : State) :
    (s.setDesc i d).lanes = s.lanes := rfl

@[simp] theorem State.setDesc_next (i : DescIndex) (d : Descriptor) (s : State) :
    (s.setDesc i d).next = s.next := rfl

@[simp] theorem State.setDesc_current (i : DescIndex) (d : Descriptor) (s : State) :
    (s.setDesc i d).current = s.current := rfl

@[simp] theorem State.setDesc_nextRec (i : DescIndex) (d : Descriptor) (s : State) :
    (s.setDesc i d).nextRec = s.nextRec := rfl

@[simp] theorem State.setDesc_curRec (i : DescIndex) (d : Descriptor) (s : State) :
    (s.setDesc i d).curRec = s.curRec := rfl

@[simp] theorem State.setDesc_win (i : DescIndex) (d : Descriptor) (s : State) : (s.setDesc i d).win = s.win := rfl

@[simp] theorem State.setDesc_winRec (i : DescIndex) (d : Descriptor) (s : State) :
    (s.setDesc i d).winRec = s.winRec := rfl

@[simp] theorem State.setDesc_peers (i : DescIndex) (d : Descriptor) (s : State) :
    (s.setDesc i d).peers = s.peers := rfl

@[simp] theorem State.setDesc_req (i : DescIndex) (d : Descriptor) (s : State) : (s.setDesc i d).req = s.req := rfl

@[simp] theorem State.setDesc_key (i : DescIndex) (d : Descriptor) (s : State) : (s.setDesc i d).key = s.key := rfl

@[simp] theorem State.setDesc_keying (i : DescIndex) (d : Descriptor) (s : State) :
    (s.setDesc i d).keying = s.keying := rfl

@[simp] theorem State.setDesc_dec (i : DescIndex) (d : Descriptor) (s : State) : (s.setDesc i d).dec = s.dec := rfl

@[simp] theorem State.setDesc_link (i : DescIndex) (d : Descriptor) (s : State) :
    (s.setDesc i d).link = s.link := rfl

@[simp] theorem State.setDesc_ev (i : DescIndex) (d : Descriptor) (s : State) : (s.setDesc i d).ev = s.ev := rfl

/-! ### State.setLane -/

@[simp] theorem State.setLane_pending (l : LaneNo) (x : Lane) (s : State) :
    (s.setLane l x).pending = s.pending := rfl

@[simp] theorem State.setLane_freeIdx (l : LaneNo) (x : Lane) (s : State) :
    (s.setLane l x).freeIdx = s.freeIdx := rfl

@[simp] theorem State.setLane_handedOver (l : LaneNo) (x : Lane) (s : State) :
    (s.setLane l x).handedOver = s.handedOver := rfl

@[simp] theorem State.setLane_pwr (l : LaneNo) (x : Lane) (s : State) : (s.setLane l x).pwr = s.pwr := rfl

@[simp] theorem State.setLane_straps (l : LaneNo) (x : Lane) (s : State) : (s.setLane l x).straps = s.straps := rfl

@[simp] theorem State.setLane_trk (l : LaneNo) (x : Lane) (s : State) : (s.setLane l x).trk = s.trk := rfl

@[simp] theorem State.setLane_zone (l : LaneNo) (x : Lane) (s : State) : (s.setLane l x).zone = s.zone := rfl

@[simp] theorem State.setLane_store (l : LaneNo) (x : Lane) (s : State) : (s.setLane l x).store = s.store := rfl

@[simp] theorem State.setLane_lanes (l : LaneNo) (x : Lane) (s : State) :
    (s.setLane l x).lanes = { s.lanes with lane := s.lanes.lane.set l x } := rfl

@[simp] theorem State.setLane_next (l : LaneNo) (x : Lane) (s : State) : (s.setLane l x).next = s.next := rfl

@[simp] theorem State.setLane_current (l : LaneNo) (x : Lane) (s : State) :
    (s.setLane l x).current = s.current := rfl

@[simp] theorem State.setLane_nextRec (l : LaneNo) (x : Lane) (s : State) :
    (s.setLane l x).nextRec = s.nextRec := rfl

@[simp] theorem State.setLane_curRec (l : LaneNo) (x : Lane) (s : State) : (s.setLane l x).curRec = s.curRec := rfl

@[simp] theorem State.setLane_win (l : LaneNo) (x : Lane) (s : State) : (s.setLane l x).win = s.win := rfl

@[simp] theorem State.setLane_winRec (l : LaneNo) (x : Lane) (s : State) : (s.setLane l x).winRec = s.winRec := rfl

@[simp] theorem State.setLane_peers (l : LaneNo) (x : Lane) (s : State) : (s.setLane l x).peers = s.peers := rfl

@[simp] theorem State.setLane_req (l : LaneNo) (x : Lane) (s : State) : (s.setLane l x).req = s.req := rfl

@[simp] theorem State.setLane_key (l : LaneNo) (x : Lane) (s : State) : (s.setLane l x).key = s.key := rfl

@[simp] theorem State.setLane_keying (l : LaneNo) (x : Lane) (s : State) : (s.setLane l x).keying = s.keying := rfl

@[simp] theorem State.setLane_dec (l : LaneNo) (x : Lane) (s : State) : (s.setLane l x).dec = s.dec := rfl

@[simp] theorem State.setLane_link (l : LaneNo) (x : Lane) (s : State) : (s.setLane l x).link = s.link := rfl

@[simp] theorem State.setLane_ev (l : LaneNo) (x : Lane) (s : State) : (s.setLane l x).ev = s.ev := rfl

/-! ### State.laneEvent -/

@[simp] theorem State.laneEvent_pending (l : LaneNo) (e : Event) (s : State) :
    (s.laneEvent l e).pending = s.pending := rfl

@[simp] theorem State.laneEvent_freeIdx (l : LaneNo) (e : Event) (s : State) :
    (s.laneEvent l e).freeIdx = s.freeIdx := rfl

@[simp] theorem State.laneEvent_handedOver (l : LaneNo) (e : Event) (s : State) :
    (s.laneEvent l e).handedOver = s.handedOver := rfl

@[simp] theorem State.laneEvent_pwr (l : LaneNo) (e : Event) (s : State) : (s.laneEvent l e).pwr = s.pwr := rfl

@[simp] theorem State.laneEvent_straps (l : LaneNo) (e : Event) (s : State) :
    (s.laneEvent l e).straps = s.straps := rfl

@[simp] theorem State.laneEvent_trk (l : LaneNo) (e : Event) (s : State) : (s.laneEvent l e).trk = s.trk := rfl

@[simp] theorem State.laneEvent_zone (l : LaneNo) (e : Event) (s : State) : (s.laneEvent l e).zone = s.zone := rfl

@[simp] theorem State.laneEvent_store (l : LaneNo) (e : Event) (s : State) :
    (s.laneEvent l e).store = s.store := rfl

@[simp] theorem State.laneEvent_lanes (l : LaneNo) (e : Event) (s : State) :
    (s.laneEvent l e).lanes = { s.lanes with lastEvent := some l } := rfl

@[simp] theorem State.laneEvent_next (l : LaneNo) (e : Event) (s : State) : (s.laneEvent l e).next = s.next := rfl

@[simp] theorem State.laneEvent_current (l : LaneNo) (e : Event) (s : State) :
    (s.laneEvent l e).current = s.current := rfl

@[simp] theorem State.laneEvent_nextRec (l : LaneNo) (e : Event) (s : State) :
    (s.laneEvent l e).nextRec = s.nextRec := rfl

@[simp] theorem State.laneEvent_curRec (l : LaneNo) (e : Event) (s : State) :
    (s.laneEvent l e).curRec = s.curRec := rfl

@[simp] theorem State.laneEvent_win (l : LaneNo) (e : Event) (s : State) : (s.laneEvent l e).win = s.win := rfl

@[simp] theorem State.laneEvent_winRec (l : LaneNo) (e : Event) (s : State) :
    (s.laneEvent l e).winRec = s.winRec := rfl

@[simp] theorem State.laneEvent_peers (l : LaneNo) (e : Event) (s : State) :
    (s.laneEvent l e).peers = s.peers := rfl

@[simp] theorem State.laneEvent_req (l : LaneNo) (e : Event) (s : State) : (s.laneEvent l e).req = s.req := rfl

@[simp] theorem State.laneEvent_key (l : LaneNo) (e : Event) (s : State) : (s.laneEvent l e).key = s.key := rfl

@[simp] theorem State.laneEvent_keying (l : LaneNo) (e : Event) (s : State) :
    (s.laneEvent l e).keying = s.keying := rfl

@[simp] theorem State.laneEvent_dec (l : LaneNo) (e : Event) (s : State) : (s.laneEvent l e).dec = s.dec := rfl

@[simp] theorem State.laneEvent_link (l : LaneNo) (e : Event) (s : State) : (s.laneEvent l e).link = s.link := rfl

@[simp] theorem State.laneEvent_ev (l : LaneNo) (e : Event) (s : State) :
    (s.laneEvent l e).ev = { s.ev with latches := s.ev.latches ||| e.bit } := rfl

/-! ### State.signalCue -/

@[simp] theorem State.signalCue_pending (v : Nat) (s : State) : (s.signalCue v).pending = s.pending := rfl

@[simp] theorem State.signalCue_freeIdx (v : Nat) (s : State) : (s.signalCue v).freeIdx = s.freeIdx := rfl

@[simp] theorem State.signalCue_handedOver (v : Nat) (s : State) : (s.signalCue v).handedOver = s.handedOver := rfl

@[simp] theorem State.signalCue_pwr (v : Nat) (s : State) : (s.signalCue v).pwr = s.pwr := rfl

@[simp] theorem State.signalCue_straps (v : Nat) (s : State) : (s.signalCue v).straps = s.straps := rfl

@[simp] theorem State.signalCue_trk (v : Nat) (s : State) : (s.signalCue v).trk = s.trk := rfl

@[simp] theorem State.signalCue_zone (v : Nat) (s : State) : (s.signalCue v).zone = s.zone := rfl

@[simp] theorem State.signalCue_store (v : Nat) (s : State) : (s.signalCue v).store = s.store := rfl

@[simp] theorem State.signalCue_lanes (v : Nat) (s : State) : (s.signalCue v).lanes = s.lanes := rfl

@[simp] theorem State.signalCue_next (v : Nat) (s : State) : (s.signalCue v).next = s.next := rfl

@[simp] theorem State.signalCue_current (v : Nat) (s : State) : (s.signalCue v).current = s.current := rfl

@[simp] theorem State.signalCue_nextRec (v : Nat) (s : State) : (s.signalCue v).nextRec = s.nextRec := rfl

@[simp] theorem State.signalCue_curRec (v : Nat) (s : State) : (s.signalCue v).curRec = s.curRec := rfl

@[simp] theorem State.signalCue_win (v : Nat) (s : State) : (s.signalCue v).win = s.win := rfl

@[simp] theorem State.signalCue_winRec (v : Nat) (s : State) : (s.signalCue v).winRec = s.winRec := rfl

@[simp] theorem State.signalCue_peers (v : Nat) (s : State) : (s.signalCue v).peers = s.peers := rfl

@[simp] theorem State.signalCue_req (v : Nat) (s : State) : (s.signalCue v).req = s.req := rfl

@[simp] theorem State.signalCue_key (v : Nat) (s : State) : (s.signalCue v).key = s.key := rfl

@[simp] theorem State.signalCue_keying (v : Nat) (s : State) : (s.signalCue v).keying = s.keying := rfl

@[simp] theorem State.signalCue_dec (v : Nat) (s : State) :
    (s.signalCue v).dec = { s.dec with lastCue := BitVec.ofNat 4 v, cus := true } := rfl

@[simp] theorem State.signalCue_link (v : Nat) (s : State) : (s.signalCue v).link = s.link := rfl

@[simp] theorem State.signalCue_ev (v : Nat) (s : State) :
    (s.signalCue v).ev = { s.ev with latches := s.ev.latches ||| Event.cue.bit } := rfl

/-! ### State.driveCell -/

@[simp] theorem State.driveCell_pending (s : State) : (s.driveCell).pending = s.pending := rfl

@[simp] theorem State.driveCell_freeIdx (s : State) : (s.driveCell).freeIdx = s.freeIdx := rfl

@[simp] theorem State.driveCell_handedOver (s : State) : (s.driveCell).handedOver = s.handedOver := rfl

@[simp] theorem State.driveCell_pwr (s : State) : (s.driveCell).pwr = s.pwr := rfl

@[simp] theorem State.driveCell_straps (s : State) : (s.driveCell).straps = s.straps := rfl

@[simp] theorem State.driveCell_trk (s : State) : (s.driveCell).trk = s.trk := rfl

@[simp] theorem State.driveCell_zone (s : State) : (s.driveCell).zone = s.zone := rfl

@[simp] theorem State.driveCell_store (s : State) : (s.driveCell).store = s.store := rfl

@[simp] theorem State.driveCell_lanes (s : State) : (s.driveCell).lanes = s.lanes := rfl

@[simp] theorem State.driveCell_next (s : State) : (s.driveCell).next = s.next := rfl

@[simp] theorem State.driveCell_current (s : State) : (s.driveCell).current = s.current := rfl

@[simp] theorem State.driveCell_nextRec (s : State) : (s.driveCell).nextRec = s.nextRec := rfl

@[simp] theorem State.driveCell_curRec (s : State) : (s.driveCell).curRec = s.curRec := rfl

@[simp] theorem State.driveCell_win (s : State) :
    (s.driveCell).win = { s.win with pullCca := s.cellDrive.pullCca, driveCco := s.cellDrive.driveCco } := rfl

@[simp] theorem State.driveCell_winRec (s : State) : (s.driveCell).winRec = s.winRec := rfl

@[simp] theorem State.driveCell_peers (s : State) : (s.driveCell).peers = s.peers := rfl

@[simp] theorem State.driveCell_req (s : State) : (s.driveCell).req = s.req := rfl

@[simp] theorem State.driveCell_key (s : State) : (s.driveCell).key = s.key := rfl

@[simp] theorem State.driveCell_keying (s : State) : (s.driveCell).keying = s.keying := rfl

@[simp] theorem State.driveCell_dec (s : State) : (s.driveCell).dec = s.dec := rfl

@[simp] theorem State.driveCell_link (s : State) : (s.driveCell).link = s.link := rfl

@[simp] theorem State.driveCell_ev (s : State) : (s.driveCell).ev = s.ev := rfl

/-! ### State.setRx -/

@[simp] theorem State.setRx_pending (rx : Receiver) (s : State) : (s.setRx rx).pending = s.pending := rfl

@[simp] theorem State.setRx_freeIdx (rx : Receiver) (s : State) : (s.setRx rx).freeIdx = s.freeIdx := rfl

@[simp] theorem State.setRx_handedOver (rx : Receiver) (s : State) : (s.setRx rx).handedOver = s.handedOver := rfl

@[simp] theorem State.setRx_pwr (rx : Receiver) (s : State) : (s.setRx rx).pwr = s.pwr := rfl

@[simp] theorem State.setRx_straps (rx : Receiver) (s : State) : (s.setRx rx).straps = s.straps := rfl

@[simp] theorem State.setRx_trk (rx : Receiver) (s : State) : (s.setRx rx).trk = s.trk := rfl

@[simp] theorem State.setRx_zone (rx : Receiver) (s : State) : (s.setRx rx).zone = s.zone := rfl

@[simp] theorem State.setRx_store (rx : Receiver) (s : State) : (s.setRx rx).store = s.store := rfl

@[simp] theorem State.setRx_lanes (rx : Receiver) (s : State) : (s.setRx rx).lanes = s.lanes := rfl

@[simp] theorem State.setRx_next (rx : Receiver) (s : State) : (s.setRx rx).next = s.next := rfl

@[simp] theorem State.setRx_current (rx : Receiver) (s : State) : (s.setRx rx).current = s.current := rfl

@[simp] theorem State.setRx_nextRec (rx : Receiver) (s : State) : (s.setRx rx).nextRec = s.nextRec := rfl

@[simp] theorem State.setRx_curRec (rx : Receiver) (s : State) : (s.setRx rx).curRec = s.curRec := rfl

@[simp] theorem State.setRx_win (rx : Receiver) (s : State) : (s.setRx rx).win = s.win := rfl

@[simp] theorem State.setRx_winRec (rx : Receiver) (s : State) : (s.setRx rx).winRec = s.winRec := rfl

@[simp] theorem State.setRx_peers (rx : Receiver) (s : State) : (s.setRx rx).peers = s.peers := rfl

@[simp] theorem State.setRx_req (rx : Receiver) (s : State) : (s.setRx rx).req = s.req := rfl

@[simp] theorem State.setRx_key (rx : Receiver) (s : State) : (s.setRx rx).key = s.key := rfl

@[simp] theorem State.setRx_keying (rx : Receiver) (s : State) : (s.setRx rx).keying = s.keying := rfl

@[simp] theorem State.setRx_dec (rx : Receiver) (s : State) : (s.setRx rx).dec = s.dec := rfl

@[simp] theorem State.setRx_link (rx : Receiver) (s : State) : (s.setRx rx).link = { s.link with rx := rx } := rfl

@[simp] theorem State.setRx_ev (rx : Receiver) (s : State) : (s.setRx rx).ev = s.ev := rfl

/-! ### Reading a descriptor and a lane after an update -/

@[simp] theorem State.setDesc_desc (i j : DescIndex) (d : Descriptor) (s : State) :
    (s.setDesc i d).desc j = if i = j then d else s.desc j := by
  simp only [State.desc, State.setDesc_store, Fin.getElem_fin, Vector.getElem_set, Fin.ext_iff]

@[simp] theorem State.setDesc_laneAt (i : DescIndex) (l : LaneNo) (d : Descriptor) (s : State) :
    (s.setDesc i d).laneAt l = s.laneAt l := rfl

@[simp] theorem State.setLane_laneAt (l m : LaneNo) (x : Lane) (s : State) :
    (s.setLane l x).laneAt m = if l = m then x else s.laneAt m := by
  simp only [State.laneAt, State.setLane_lanes, Fin.getElem_fin, Vector.getElem_set, Fin.ext_iff]

@[simp] theorem State.setLane_desc (l : LaneNo) (i : DescIndex) (x : Lane) (s : State) :
    (s.setLane l x).desc i = s.desc i := rfl

@[simp] theorem State.laneEvent_laneAt (l m : LaneNo) (e : Event) (s : State) :
    (s.laneEvent l e).laneAt m = s.laneAt m := rfl

@[simp] theorem State.laneEvent_desc (l : LaneNo) (i : DescIndex) (e : Event) (s : State) :
    (s.laneEvent l e).desc i = s.desc i := rfl

end Sys2Proof.Machine
end

