-- ==== Sys2Proof/Laws/Frames.lean ====
section
/-! SUPPORT. What each shared operation can change: one lemma per operation, `…_frame`, saying that the state after it is
the state before with the named parts written. `congrArg State.<part>` of it is "the part is unchanged". -/

namespace Sys2Proof.Machine

/-! ### Lines and collision -/

/-- Driving the bus. -/
theorem State.driveBus_frame (t : Instant) (l : KeyingLines) (s : State) :
    s.driveBus t l =
      { s with keying := (s.driveBus t l).keying, dec := (s.driveBus t l).dec } := by
  unfold State.driveBus
  try dsimp only
  repeat' split
  all_goals rfl

/-- Driving the loop. -/
theorem State.driveLoop_frame (t : Instant) (l : KeyingLines) (s : State) :
    s.driveLoop t l =
      { s with keying := (s.driveLoop t l).keying, dec := (s.driveLoop t l).dec } := by
  unfold State.driveLoop
  try dsimp only
  repeat' split
  all_goals rfl

/-- Releasing every line. -/
theorem State.releaseKeying_frame (t : Instant) (s : State) :
    s.releaseKeying t =
      { s with keying := (s.releaseKeying t).keying, dec := (s.releaseKeying t).dec } := by
  obtain ⟨k0, d1, h⟩ : ∃ k0 d1, s.releaseKeying t =
      { s with keying := k0, dec := d1 } := by
    exact ⟨_, _, (congrArg (State.driveLoop t linesReleased) (State.driveBus_frame t linesReleased s)).trans
      (State.driveLoop_frame t linesReleased _)⟩
  rw [h]

/-- A collision (R113). -/
theorem State.collide_frame (t : Instant) (s : State) :
    s.collide t =
      { s with
        key := (s.collide t).key
        keying := (s.collide t).keying
        dec := (s.collide t).dec
        ev := (s.collide t).ev } := by
  obtain ⟨k0, k1, d2, e3, h⟩ : ∃ k0 k1 d2 e3, s.collide t =
      { s with key := k0, keying := k1, dec := d2, ev := e3 } := by
    exact ⟨_, _, _, _, (congrArg (State.raise .collision) (State.releaseKeying_frame t _)).trans rfl⟩
  rw [h]

/-- Putting lines on the selected output. -/
theorem State.putLines_frame (t : Instant) (l : KeyingLines) (s : State) :
    s.putLines t l =
      { s with keying := (s.putLines t l).keying, dec := (s.putLines t l).dec } := by
  unfold State.putLines
  split
  · exact State.driveBus_frame t l s
  · exact State.driveLoop_frame t l s
  · rfl

/-! ### Calendar and decoder -/

/-- An entry falling due (R45). -/
theorem zoneDue_frame (c : Nat) (s : State) :
    zoneDue c s =
      { s with zone := (zoneDue c s).zone, ev := (zoneDue c s).ev } := by
  unfold zoneDue
  try dsimp only
  repeat' split
  all_goals rfl

/-- Settling the zone table (R46). -/
theorem settleZone_frame (c : Nat) (before : Option ZoneEntry) (s : State) :
    settleZone c before s =
      { s with zone := (settleZone c before s).zone, ev := (settleZone c before s).ev } := by
  unfold settleZone State.raiseIf
  dsimp only
  split <;> rfl

/-- Closing the open minute (R134, R138). -/
theorem closeAirMinute_frame (m : Nat) (s : State) :
    (closeAirMinute m s).1 =
      { s with dec := (closeAirMinute m s).1.dec, ev := (closeAirMinute m s).1.ev } := by
  unfold closeAirMinute State.raiseIf
  dsimp only
  split
  · rfl
  · dsimp only
    split <;> rfl

/-- The cue (R140). -/
theorem cueStep_frame (entry : SecondEntry) (s : State) :
    cueStep entry s =
      { s with dec := (cueStep entry s).dec, ev := (cueStep entry s).ev } := by
  unfold cueStep
  try dsimp only
  repeat' split
  all_goals rfl

/-- A proof report (R133). -/
theorem proofReport_frame (matched : Bool) (s : State) :
    proofReport matched s =
      { s with key := (proofReport matched s).key } := by
  unfold proofReport
  try dsimp only

/-- The decoder at an own edge. -/
theorem secondEnds_frame (read : Bool) (e : Instant) (s : State) :
    secondEnds read e s =
      { s with
        key := (secondEnds read e s).key
        dec := (secondEnds read e s).dec
        ev := (secondEnds read e s).ev } := by
  obtain ⟨k0, d1, e2, h⟩ : ∃ k0 d1 e2, secondEnds read e s =
      { s with key := k0, dec := d1, ev := e2 } := by
    unfold secondEnds
    split
    · exact ⟨_, _, _, rfl⟩
    · dsimp only
      split
      · exact ⟨_, _, _, (cueStep_frame _ _).trans rfl⟩
      · exact ⟨_, _, _, (cueStep_frame _ _).trans rfl⟩
  rw [h]

/-! ### Reference tracker -/

/-- The reference reading in the proof minute (R119). -/
theorem proofReferenceCheck_frame (s : State) :
    proofReferenceCheck s =
      { s with key := (proofReferenceCheck s).key } := by
  unfold proofReferenceCheck
  try dsimp only
  repeat' split
  all_goals rfl

/-- Entry to LOCKED from ACQUIRING (R26). -/
theorem lockFromAcquiring_frame (sec : RefSecond) (time : UtcTime) (s : State) :
    lockFromAcquiring sec time s =
      { s with
        trk := (lockFromAcquiring sec time s).trk
        zone := (lockFromAcquiring sec time s).zone
        dec := (lockFromAcquiring sec time s).dec
        ev := (lockFromAcquiring sec time s).ev } := by
  obtain ⟨t0, z1, d2, e3, h⟩ : ∃ t0 z1 d2 e3, lockFromAcquiring sec time s =
      { s with trk := t0, zone := z1, dec := d2, ev := e3 } := by
    exact ⟨_, _, _, _, congrArg (fun s => (openUnobserved time.toCount s).raise .refLocked) (settleZone_frame time.toCount.minute none _) |>.trans rfl⟩
  rw [h]

/-- A judged second in ACQUIRING (R26). -/
theorem judgeAcquiring_frame (sec : RefSecond) (v : Verdict) (s : State) :
    judgeAcquiring sec v s =
      { s with
        trk := (judgeAcquiring sec v s).trk
        zone := (judgeAcquiring sec v s).zone
        dec := (judgeAcquiring sec v s).dec
        ev := (judgeAcquiring sec v s).ev } := by
  obtain ⟨t0, z1, d2, e3, h⟩ : ∃ t0 z1 d2 e3, judgeAcquiring sec v s =
      { s with trk := t0, zone := z1, dec := d2, ev := e3 } := by
    unfold judgeAcquiring
    split
    · exact ⟨_, _, _, _, rfl⟩
    · exact ⟨_, _, _, _, rfl⟩
    · split
      · exact ⟨_, _, _, _, lockFromAcquiring_frame _ _ s⟩
      · exact ⟨_, _, _, _, rfl⟩
  rw [h]

/-- A judged second in LOCKED (R27). -/
theorem judgeLocked_frame (sec : RefSecond) (v : Verdict) (s : State) :
    judgeLocked sec v s =
      { s with trk := (judgeLocked sec v s).trk, ev := (judgeLocked sec v s).ev } := by
  unfold judgeLocked
  try dsimp only
  repeat' split
  all_goals rfl

/-- A judged second in HOLDOVER or EXPIRED (R31, R32). -/
theorem judgeRunningAlone_frame (sec : RefSecond) (v : Verdict) (s : State) :
    judgeRunningAlone sec v s =
      { s with trk := (judgeRunningAlone sec v s).trk, ev := (judgeRunningAlone sec v s).ev } := by
  unfold judgeRunningAlone
  try dsimp only
  repeat' split
  all_goals rfl

/-- A judged second in STEPPING (R29). -/
theorem judgeStepping_frame (sec : RefSecond) (v : Verdict) (s : State) :
    judgeStepping sec v s =
      { s with trk := (judgeStepping sec v s).trk, ev := (judgeStepping sec v s).ev } := by
  unfold judgeStepping
  split
  · rfl
  · dsimp only
    split <;> rfl
  · rfl

/-- The judgement of a reference second (R22, R23). -/
theorem judge_frame (sec : RefSecond) (v : Verdict) (s : State) :
    judge sec v s =
      { s with
        trk := (judge sec v s).trk
        zone := (judge sec v s).zone
        key := (judge sec v s).key
        dec := (judge sec v s).dec
        ev := (judge sec v s).ev } := by
  obtain ⟨t0, z1, k2, d3, e4, h⟩ : ∃ t0 z1 k2 d3 e4, judge sec v s =
      { s with trk := t0, zone := z1, key := k2, dec := d3, ev := e4 } := by
    unfold judge
    dsimp only
    split
    · exact ⟨_, _, _, _, _, (congrArg proofReferenceCheck (judgeAcquiring_frame sec v _)).trans (proofReferenceCheck_frame _)⟩
    · exact ⟨_, _, _, _, _, (congrArg proofReferenceCheck (judgeLocked_frame sec v _)).trans (proofReferenceCheck_frame _)⟩
    · exact ⟨_, _, _, _, _, (congrArg proofReferenceCheck (judgeRunningAlone_frame sec v _)).trans (proofReferenceCheck_frame _)⟩
    · exact ⟨_, _, _, _, _, (congrArg proofReferenceCheck (judgeRunningAlone_frame sec v _)).trans (proofReferenceCheck_frame _)⟩
    · exact ⟨_, _, _, _, _, (congrArg proofReferenceCheck (judgeStepping_frame sec v _)).trans (proofReferenceCheck_frame _)⟩
  rw [h]

/-- The end of an open message (R20). -/
theorem endMessage_frame (msg : Option RefMessage) (s : State) :
    endMessage msg s =
      { s with
        trk := (endMessage msg s).trk
        zone := (endMessage msg s).zone
        key := (endMessage msg s).key
        dec := (endMessage msg s).dec
        ev := (endMessage msg s).ev } := by
  obtain ⟨t0, z1, k2, d3, e4, h⟩ : ∃ t0 z1 k2 d3 e4, endMessage msg s =
      { s with trk := t0, zone := z1, key := k2, dec := d3, ev := e4 } := by
    unfold endMessage
    split
    · exact ⟨_, _, _, _, _, rfl⟩
    · exact ⟨_, _, _, _, _, judge_frame _ _ _⟩
  rw [h]

/-- Steering by REFP (R24). -/
theorem steerByRefp_frame (t : Instant) (s : State) :
    steerByRefp t s =
      { s with trk := (steerByRefp t s).trk } := by
  unfold steerByRefp
  try dsimp only
  repeat' split
  all_goals rfl

/-- A REFP edge (R22). -/
theorem refpEdge_frame (t : Instant) (s : State) :
    refpEdge t s =
      { s with
        trk := (refpEdge t s).trk
        zone := (refpEdge t s).zone
        key := (refpEdge t s).key
        dec := (refpEdge t s).dec
        ev := (refpEdge t s).ev } := by
  obtain ⟨t0, z1, k2, d3, e4, h⟩ : ∃ t0 z1 k2 d3 e4, refpEdge t s =
      { s with trk := t0, zone := z1, key := k2, dec := d3, ev := e4 } := by
    exact ⟨_, _, _, _, _, (congrArg
      (fun s : State => steerByRefp t { s with trk := { s.trk with openMsg := some ⟨t, []⟩ } })
      (endMessage_frame none s)).trans (steerByRefp_frame t _)⟩
  rw [h]

/-- A REFD character (R20, R21). -/
theorem refdCharacter_frame (c : Byte) (s : State) :
    refdCharacter c s =
      { s with
        trk := (refdCharacter c s).trk
        zone := (refdCharacter c s).zone
        key := (refdCharacter c s).key
        dec := (refdCharacter c s).dec
        ev := (refdCharacter c s).ev } := by
  obtain ⟨t0, z1, k2, d3, e4, h⟩ : ∃ t0 z1 k2 d3 e4, refdCharacter c s =
      { s with trk := t0, zone := z1, key := k2, dec := d3, ev := e4 } := by
    unfold refdCharacter
    split
    · exact ⟨_, _, _, _, _, rfl⟩
    · dsimp only
      split
      · exact ⟨_, _, _, _, _, endMessage_frame _ s⟩
      · exact ⟨_, _, _, _, _, rfl⟩
  rw [h]

/-- A notional second (R22). -/
theorem notionalSecond_frame (s : State) :
    notionalSecond s =
      { s with
        trk := (notionalSecond s).trk
        zone := (notionalSecond s).zone
        key := (notionalSecond s).key
        dec := (notionalSecond s).dec
        ev := (notionalSecond s).ev } := by
  obtain ⟨t0, z1, k2, d3, e4, h⟩ : ∃ t0 z1 k2 d3 e4, notionalSecond s =
      { s with trk := t0, zone := z1, key := k2, dec := d3, ev := e4 } := by
    unfold notionalSecond
    split
    · exact ⟨_, _, _, _, _, judge_frame _ _ s⟩
    · exact ⟨_, _, _, _, _, rfl⟩
  rw [h]

/-- The tracker at an own edge (R24, R25). -/
theorem trackerEdge_frame (s : State) :
    trackerEdge s =
      { s with trk := (trackerEdge s).trk, ev := (trackerEdge s).ev } := by
  unfold trackerEdge State.raiseIf
  dsimp only
  split <;> split <;> rfl

/-! ### Store and lanes -/

/-- An arrival (R150). -/
theorem arrive_frame (l : LaneNo) (byCredit : Bool) (s : State) :
    arrive l byCredit s =
      { s with
        store := (arrive l byCredit s).store
        lanes := (arrive l byCredit s).lanes
        ev := (arrive l byCredit s).ev } := by
  unfold arrive
  dsimp only
  repeat' split
  all_goals rfl

/-- The write-back (R156). -/
theorem writeBack_frame (l : LaneNo) (link : Option DescIndex) (s : State) :
    writeBack l link s =
      { s with
        store := (writeBack l link s).store
        lanes := (writeBack l link s).lanes
        ev := (writeBack l link s).ev } := by
  obtain ⟨s0, l1, e2, h⟩ : ∃ s0 l1 e2, writeBack l link s =
      { s with store := s0, lanes := l1, ev := e2 } := by
    unfold writeBack
    dsimp only
    split
    · exact ⟨_, _, _, (arrive_frame l true _).trans rfl⟩
    · exact ⟨_, _, _, (arrive_frame l true _).trans rfl⟩
  rw [h]

/-- The credit of an end-flag descriptor (R155). -/
theorem creditEnd_frame (l : LaneNo) (link : Option DescIndex) (s : State) :
    creditEnd l link s =
      { s with
        store := (creditEnd l link s).store
        lanes := (creditEnd l link s).lanes
        ev := (creditEnd l link s).ev } := by
  obtain ⟨s0, l1, e2, h⟩ : ∃ s0 l1 e2, creditEnd l link s =
      { s with store := s0, lanes := l1, ev := e2 } := by
    unfold creditEnd
    dsimp only
    split
    · exact ⟨_, _, _, rfl⟩
    · exact ⟨_, _, _, (writeBack_frame l link _).trans rfl⟩
  rw [h]

/-- A credit (R154). -/
theorem credit_frame (l : LaneNo) (i : DescIndex) (s : State) :
    credit l i s =
      { s with store := (credit l i s).store, lanes := (credit l i s).lanes, ev := (credit l i s).ev } := by
  obtain ⟨s0, l1, e2, h⟩ : ∃ s0 l1 e2, credit l i s =
      { s with store := s0, lanes := l1, ev := e2 } := by
    unfold credit
    dsimp only
    split
    · exact ⟨_, _, _, (creditEnd_frame l _ _).trans rfl⟩
    · exact ⟨_, _, _, (arrive_frame l true _).trans rfl⟩
  rw [h]

/-- The lane controller takes a record (R153). -/
theorem takeCredit_frame (record : Option AirRecord) (retired : Option Draft) (s : State) :
    takeCredit record retired s =
      { s with
        store := (takeCredit record retired s).store
        lanes := (takeCredit record retired s).lanes
        ev := (takeCredit record retired s).ev } := by
  obtain ⟨s0, l1, e2, h⟩ : ∃ s0 l1 e2, takeCredit record retired s =
      { s with store := s0, lanes := l1, ev := e2 } := by
    unfold takeCredit
    repeat' split
    all_goals first
      | exact ⟨_, _, _, rfl⟩
      | exact ⟨_, _, _, credit_frame _ _ s⟩
  rw [h]

/-- The countdowns (R157). -/
theorem countdowns_frame (s : State) :
    countdowns s =
      { s with lanes := (countdowns s).lanes } := by
  unfold countdowns
  try dsimp only

/-- Examining the lanes of a list at a freeze writes their states, the lane of the last event and the latches (R151). -/
theorem examineLanes_frame (ls : List LaneNo) (s : State) (c : Option (LaneNo × DescIndex)) :
    (ls.foldl examineLane (s, c)).1 =
      { s with
        lanes := (ls.foldl examineLane (s, c)).1.lanes
        ev := (ls.foldl examineLane (s, c)).1.ev } := by
  induction ls generalizing s c with
  | nil => rfl
  | cons l ls ih =>
    obtain ⟨l0, e1, c0, h⟩ : ∃ l0 e1 c0, examineLane (s, c) l = ({ s with lanes := l0, ev := e1 }, c0) := by
      unfold examineLane
      dsimp only
      repeat' split
      all_goals exact ⟨_, _, _, rfl⟩
    rw [List.foldl_cons, h]
    exact (ih _ c0).trans rfl

/-- The choice of segment (R151, R152). -/
theorem laneChoice_frame (s : State) :
    (laneChoice s).1 =
      { s with lanes := (laneChoice s).1.lanes, ev := (laneChoice s).1.ev } := by
  obtain ⟨l0, e1, h⟩ : ∃ l0 e1, (laneChoice s).1 =
      { s with lanes := l0, ev := e1 } := by
    unfold laneChoice
    dsimp only
    split
    · exact ⟨_, _, examineLanes_frame _ s none⟩
    · split
      · exact ⟨_, _, (congrArg (fun s => State.laneEvent _ .announceDone s) (examineLanes_frame _ s none)).trans rfl⟩
      · exact ⟨_, _, examineLanes_frame _ s none⟩
  rw [h]

/-- DESC WRITE (R144). -/
theorem descWrite_frame (b : DescBody) (s : State) :
    (descWrite b s).2 =
      { s with store := (descWrite b s).2.store } := by
  unfold descWrite
  try dsimp only
  repeat' split
  all_goals rfl

/-- Ending the starvations of a list of lanes at a descriptor (R145). -/
theorem endStarvations_frame (i : DescIndex) (ls : List LaneNo) (s : State) :
    ls.foldl (endStarvation i) s =
      { s with
        store := (ls.foldl (endStarvation i) s).store
        lanes := (ls.foldl (endStarvation i) s).lanes
        ev := (ls.foldl (endStarvation i) s).ev } := by
  induction ls generalizing s with
  | nil => rfl
  | cons l ls ih =>
    obtain ⟨s0, l0, e1, h⟩ : ∃ s0 l0 e1, endStarvation i s l = { s with store := s0, lanes := l0, ev := e1 } := by
      unfold endStarvation
      split
      · exact ⟨_, _, _, arrive_frame l false s⟩
      · exact ⟨_, _, _, rfl⟩
    rw [List.foldl_cons, h]
    exact (ih _).trans rfl

/-- DESC HAND (R145). -/
theorem descHand_frame (b : Byte) (s : State) :
    (descHand b s).2 =
      { s with store := (descHand b s).2.store, lanes := (descHand b s).2.lanes, ev := (descHand b s).2.ev } := by
  obtain ⟨s0, l1, e2, h⟩ : ∃ s0 l1 e2, (descHand b s).2 =
      { s with store := s0, lanes := l1, ev := e2 } := by
    unfold descHand
    split
    · exact ⟨_, _, _, rfl⟩
    · dsimp only
      split
      · exact ⟨_, _, _, rfl⟩
      · split
        · exact ⟨_, _, _, rfl⟩
        · dsimp only
          rw [endStarvations_frame]
          exact ⟨_, _, _, rfl⟩
  rw [h]

/-- DESC RECALL (R146). -/
theorem descRecall_frame (b : Byte) (s : State) :
    (descRecall b s).2 =
      { s with store := (descRecall b s).2.store } := by
  unfold descRecall
  repeat' (first | split | dsimp only)
  all_goals rfl

/-- LANE START (R160). -/
theorem laneStart_frame (lane head spacing report : Byte) (s : State) :
    (laneStart lane head spacing report s).2 =
      { s with
        store := (laneStart lane head spacing report s).2.store
        lanes := (laneStart lane head spacing report s).2.lanes
        ev := (laneStart lane head spacing report s).2.ev } := by
  obtain ⟨s0, l1, e2, h⟩ : ∃ s0 l1 e2, (laneStart lane head spacing report s).2 =
      { s with store := s0, lanes := l1, ev := e2 } := by
    unfold laneStart
    split
    · dsimp only
      split
      · exact ⟨_, _, _, (arrive_frame _ false _).trans rfl⟩
      · exact ⟨_, _, _, rfl⟩
    · exact ⟨_, _, _, rfl⟩
  rw [h]

/-- LANE STOP (R161). -/
theorem laneStop_frame (lane : Byte) (s : State) :
    (laneStop lane s).2 =
      { s with lanes := (laneStop lane s).2.lanes } := by
  unfold laneStop
  try dsimp only
  repeat' split
  all_goals rfl

/-- LANE RESUME (R161). -/
theorem laneResume_frame (lane : Byte) (s : State) :
    (laneResume lane s).2 =
      { s with
        store := (laneResume lane s).2.store
        lanes := (laneResume lane s).2.lanes
        ev := (laneResume lane s).2.ev } := by
  obtain ⟨s0, l1, e2, h⟩ : ∃ s0 l1 e2, (laneResume lane s).2 =
      { s with store := s0, lanes := l1, ev := e2 } := by
    unfold laneResume
    split
    · exact ⟨_, _, _, rfl⟩
    · split
      · exact ⟨_, _, _, arrive_frame _ false s⟩
      · exact ⟨_, _, _, rfl⟩
  rw [h]

/-- LANE CLEAR (R162). -/
theorem laneClear_frame (lane : Byte) (s : State) :
    (laneClear lane s).2 =
      { s with store := (laneClear lane s).2.store, lanes := (laneClear lane s).2.lanes } := by
  unfold laneClear
  split
  · rfl
  · dsimp only
    split <;> rfl

/-! ### Draft and contest -/

/-- NEXT comes into being (R52, R89, R118). -/
theorem holdNext_frame (d : Draft) (s : State) :
    holdNext d s =
      { s with next := (holdNext d s).next, nextRec := (holdNext d s).nextRec, key := (holdNext d s).key } := by
  unfold holdNext
  try dsimp only

/-- The lane controller is asked (R58). -/
theorem askLanes_frame (quiet : Bool) (s : State) :
    (askLanes quiet s).1 =
      { s with lanes := (askLanes quiet s).1.lanes, ev := (askLanes quiet s).1.ev } := by
  obtain ⟨l0, e1, h⟩ : ∃ l0 e1, (askLanes quiet s).1 =
      { s with lanes := l0, ev := e1 } := by
    unfold askLanes
    split
    · exact ⟨_, _, rfl⟩
    · exact ⟨_, _, laneChoice_frame s⟩
  rw [h]

/-- The freeze (R53). -/
theorem freeze_frame (key : KeyState) (read : Bool) (s : State) :
    freeze key read s =
      { s with
        lanes := (freeze key read s).lanes
        next := (freeze key read s).next
        nextRec := (freeze key read s).nextRec
        key := (freeze key read s).key
        ev := (freeze key read s).ev } := by
  obtain ⟨l0, n1, n2, k3, e4, h⟩ : ∃ l0 n1 n2 k3 e4, freeze key read s =
      { s with lanes := l0, next := n1, nextRec := n2, key := k3, ev := e4 } := by
    unfold freeze
    dsimp only
    split
    · exact ⟨_, _, _, _, _, rfl⟩
    · split
      · exact ⟨_, _, _, _, _, holdNext_frame _ s⟩
      · exact ⟨_, _, _, _, _, (congrArg (holdNext _) (askLanes_frame _ s)).trans (holdNext_frame _ _)⟩
  rw [h]

/-- The freeze edge (R53, R79). -/
theorem freezeEdge_frame (before : KeyState) (read : Bool) (s : State) :
    freezeEdge before read s =
      { s with
        freeIdx := (freezeEdge before read s).freeIdx
        lanes := (freezeEdge before read s).lanes
        next := (freezeEdge before read s).next
        nextRec := (freezeEdge before read s).nextRec
        peers := (freezeEdge before read s).peers
        key := (freezeEdge before read s).key
        ev := (freezeEdge before read s).ev } := by
  obtain ⟨f0, l1, n2, n3, p4, k5, e6, h⟩ : ∃ f0 l1 n2 n3 p4 k5 e6, freezeEdge before read s =
      { s with freeIdx := f0, lanes := l1, next := n2, nextRec := n3, peers := p4, key := k5, ev := e6 } := by
    exact ⟨_, _, _, _, _, _, _, (congrArg (fun t : State => { t with freeIdx := if before = s.key.state then s.freeIdx else s.freeIdx + 1 })
      (freeze_frame _ read (clearAssentPasses s))).trans rfl⟩
  rw [h]

/-- The effects of a decision (R97, R111). -/
theorem decisionEffects_frame (b a : ConcordRecord) (p : Bool) (s : State) :
    decisionEffects b a p s =
      { s with key := (decisionEffects b a p s).key, ev := (decisionEffects b a p s).ev } := by
  unfold decisionEffects State.raiseIf
  dsimp only
  repeat' split
  all_goals rfl

/-- The decision on a pass (R94, R99). -/
theorem decidePass_frame (p : PassReading) (s : State) :
    decidePass p s =
      { s with nextRec := (decidePass p s).nextRec, key := (decidePass p s).key, ev := (decidePass p s).ev } := by
  obtain ⟨n0, k1, e2, h⟩ : ∃ n0 k1 e2, decidePass p s =
      { s with nextRec := n0, key := k1, ev := e2 } := by
    unfold decidePass
    split
    · exact ⟨_, _, _, (decisionEffects_frame _ _ _ _).trans rfl⟩
    · exact ⟨_, _, _, rfl⟩
  rw [h]

/-- A missed pass window (R99). -/
theorem missPass_frame (s : State) :
    missPass s =
      { s with nextRec := (missPass s).nextRec } := by
  unfold missPass
  try dsimp only
  repeat' split
  all_goals rfl

/-- The hand-over (R65, R101). -/
theorem handOver_frame (s : State) :
    handOver s =
      { s with
        handedOver := (handOver s).handedOver
        next := (handOver s).next
        current := (handOver s).current
        nextRec := (handOver s).nextRec
        curRec := (handOver s).curRec } := by
  unfold handOver
  try dsimp only

/-! ### Key controller -/

/-- A bid won (R110). -/
theorem winBid_frame (s : State) :
    winBid s =
      { s with key := (winBid s).key } := by
  unfold winBid
  try dsimp only

/-- The yield is resolved (R112). -/
theorem resolveYield_frame (b : Bool) (s : State) :
    resolveYield b s =
      { s with win := (resolveYield b s).win, key := (resolveYield b s).key, ev := (resolveYield b s).ev } := by
  unfold resolveYield
  try dsimp only
  repeat' split
  all_goals rfl

/-- KEY YIELD (R111). -/
theorem keyYield_frame (s : State) :
    (keyYield s).2 =
      { s with key := (keyYield s).2.key } := by
  unfold keyYield
  try dsimp only
  repeat' split
  all_goals rfl

/-- The SHADOW outcome (R115, R116). -/
theorem takeShadow_frame (s : State) :
    takeShadow s =
      { s with key := (takeShadow s).key, ev := (takeShadow s).ev } := by
  unfold takeShadow
  dsimp only
  repeat' split
  all_goals rfl

/-- The key state at an own edge. -/
theorem keyEdge_frame (boundary : Bool) (s : State) :
    keyEdge boundary s =
      { s with key := (keyEdge boundary s).key, ev := (keyEdge boundary s).ev } := by
  unfold keyEdge
  dsimp only
  repeat' split
  all_goals rfl

/-- The listening count (R114, R121). -/
theorem listenBoundary_frame (s : State) :
    listenBoundary s =
      { s with key := (listenBoundary s).key } := by
  unfold listenBoundary
  try dsimp only

/-- READMIT (R118). -/
theorem readmit_frame (s : State) :
    (readmit s).2 =
      { s with key := (readmit s).2.key } := by
  unfold readmit
  try dsimp only
  repeat' split
  all_goals rfl

/-- The proof is judged (R120). -/
theorem proofJudge_frame (s : State) :
    proofJudge s =
      { s with key := (proofJudge s).key, ev := (proofJudge s).ev } := by
  unfold proofJudge
  try dsimp only
  repeat' split
  all_goals rfl

/-- The proof minute begins (R119). -/
theorem proofBegin_frame (s : State) :
    proofBegin s =
      { s with key := (proofBegin s).key } := by
  unfold proofBegin
  try dsimp only
  repeat' split
  all_goals rfl

/-! ### Window -/

/-- The close of a window (R88). -/
theorem closeWith_frame (r : WindowRecord) (a : Bool) (s : State) :
    closeWith r a s =
      { s with
        win := (closeWith r a s).win
        winRec := (closeWith r a s).winRec
        peers := (closeWith r a s).peers
        key := (closeWith r a s).key
        dec := (closeWith r a s).dec
        ev := (closeWith r a s).ev } := by
  unfold closeWith State.raiseIf
  split <;> rfl

/-- The yield of a dead last-second window (R112). -/
theorem cancelUnreadYield_frame (s : State) :
    cancelUnreadYield s =
      { s with
        win := (cancelUnreadYield s).win, key := (cancelUnreadYield s).key, ev := (cancelUnreadYield s).ev } := by
  obtain ⟨w0, k0, e1, h⟩ : ∃ w0 k0 e1, cancelUnreadYield s =
      { s with win := w0, key := k0, ev := e1 } := by
    unfold cancelUnreadYield
    split
    · exact ⟨_, _, _, rfl⟩
    · exact ⟨_, _, _, resolveYield_frame false s⟩
  rw [h]

/-- The close of a dead window (R74). -/
theorem closeDead_frame (s : State) :
    closeDead s =
      { s with
        nextRec := (closeDead s).nextRec
        win := (closeDead s).win
        winRec := (closeDead s).winRec
        peers := (closeDead s).peers
        key := (closeDead s).key
        dec := (closeDead s).dec
        ev := (closeDead s).ev } := by
  obtain ⟨n0, w1, w2, p3, k4, d5, e6, h⟩ : ∃ n0 w1 w2 p3 k4 d5 e6, closeDead s =
      { s with nextRec := n0, win := w1, winRec := w2, peers := p3, key := k4, dec := d5, ev := e6 } := by
    exact ⟨_, _, _, _, _, _, _, (closeWith_frame (deadRecord s) false _).trans
      (congrArg (fun t : State => { t with
          win := (closeDead s).win, winRec := (closeDead s).winRec, peers := (closeDead s).peers, key := (closeDead s).key
          dec := (closeDead s).dec, ev := (closeDead s).ev })
        ((congrArg cancelUnreadYield (missPass_frame s)).trans (cancelUnreadYield_frame _)))⟩
  rw [h]

/-- The window at an own edge (R71, R99). -/
theorem endWindow_frame (s : State) :
    endWindow s =
      { s with
        nextRec := (endWindow s).nextRec
        win := (endWindow s).win
        winRec := (endWindow s).winRec
        peers := (endWindow s).peers
        key := (endWindow s).key
        dec := (endWindow s).dec
        ev := (endWindow s).ev } := by
  obtain ⟨n0, w1, w2, p3, k4, d5, e6, h⟩ : ∃ n0 w1 w2 p3 k4 d5 e6, endWindow s =
      { s with nextRec := n0, win := w1, winRec := w2, peers := p3, key := k4, dec := d5, ev := e6 } := by
    unfold endWindow
    split
    · exact ⟨_, _, _, _, _, _, _, (congrArg (fun t : State => { t with win := { t.win with syncDriving := false } }) (closeDead_frame s)).trans rfl⟩
    · exact ⟨_, _, _, _, _, _, _, missPass_frame s⟩
    · exact ⟨_, _, _, _, _, _, _, rfl⟩
  rw [h]

/-- The own window start (R71, R72). -/
theorem openWindow_frame (s : State) :
    openWindow s =
      { s with win := (openWindow s).win } := by
  unfold openWindow
  try dsimp only
  repeat' split
  all_goals rfl

/-- A late SYNC (R72). -/
theorem lateSync_frame (s : State) :
    lateSync s =
      { s with win := (lateSync s).win } := by
  unfold lateSync
  try dsimp only
  repeat' split
  all_goals rfl

/-- The observed SYNC edge (R73). -/
theorem observeSync_frame (t : Instant) (s : State) :
    observeSync t s =
      { s with win := (observeSync t s).win } := by
  unfold observeSync
  try dsimp only
  repeat' split
  all_goals rfl

/-- A dead window (R74). -/
theorem deadWindow_frame (s : State) :
    deadWindow s =
      { s with
        nextRec := (deadWindow s).nextRec
        win := (deadWindow s).win
        winRec := (deadWindow s).winRec
        peers := (deadWindow s).peers
        key := (deadWindow s).key
        dec := (deadWindow s).dec
        ev := (deadWindow s).ev } := by
  obtain ⟨n0, w1, w2, p3, k4, d5, e6, h⟩ : ∃ n0 w1 w2 p3 k4 d5 e6, deadWindow s =
      { s with nextRec := n0, win := w1, winRec := w2, peers := p3, key := k4, dec := d5, ev := e6 } := by
    unfold deadWindow
    split
    · exact ⟨_, _, _, _, _, _, _, closeDead_frame s⟩
    · exact ⟨_, _, _, _, _, _, _, rfl⟩
  rw [h]

/-- A cell begins (R73). -/
theorem cellStart_frame (s : State) :
    cellStart s =
      { s with win := (cellStart s).win } := by
  unfold cellStart
  dsimp only
  split <;> rfl

/-- A flag cell is driven anew (R86). -/
theorem redriveFlags_frame (s : State) :
    redriveFlags s =
      { s with win := (redriveFlags s).win } := by
  unfold redriveFlags
  try dsimp only
  repeat' split
  all_goals rfl

/-- A HOLD cell that reads 1 (R113, R114). -/
theorem takeHold_frame (p : Nat) (s : State) :
    takeHold p s =
      { s with
        key := (takeHold p s).key
        keying := (takeHold p s).keying
        dec := (takeHold p s).dec
        ev := (takeHold p s).ev } := by
  obtain ⟨k0, k1, d2, e3, h⟩ : ∃ k0 k1 d2 e3, takeHold p s =
      { s with key := k0, keying := k1, dec := d2, ev := e3 } := by
    unfold takeHold
    repeat' split
    all_goals first
      | exact ⟨_, _, _, _, rfl⟩
      | exact ⟨_, _, _, _, State.collide_frame _ s⟩
  rw [h]

/-- A PRESENT or HOLD cell is read. -/
theorem holdSample_frame (o : OthersDrive) (s : State) :
    holdSample o s =
      { s with
        win := (holdSample o s).win
        key := (holdSample o s).key
        keying := (holdSample o s).keying
        dec := (holdSample o s).dec
        ev := (holdSample o s).ev } := by
  obtain ⟨w0, k1, k2, d3, e4, h⟩ : ∃ w0 k1 k2 d3 e4, holdSample o s =
      { s with win := w0, key := k1, keying := k2, dec := d3, ev := e4 } := by
    unfold holdSample
    dsimp only
    repeat' split
    all_goals first
      | exact ⟨_, _, _, _, _, rfl⟩
      | exact ⟨_, _, _, _, _, (takeHold_frame _ _).trans rfl⟩
  rw [h]

/-- The SHADOW cell is read (R82). -/
theorem shadowSample_frame (o : OthersDrive) (s : State) :
    shadowSample o s =
      { s with win := (shadowSample o s).win, key := (shadowSample o s).key, ev := (shadowSample o s).ev } := by
  obtain ⟨w0, k1, e2, h⟩ : ∃ w0 k1 e2, shadowSample o s =
      { s with win := w0, key := k1, ev := e2 } := by
    unfold shadowSample
    dsimp only
    split
    · exact ⟨_, _, _, (takeShadow_frame _).trans rfl⟩
    · exact ⟨_, _, _, rfl⟩
  rw [h]

/-- A flag cell is read (R83 to R85). -/
theorem flagSample_frame (o : OthersDrive) (s : State) :
    flagSample o s =
      { s with win := (flagSample o s).win } := by
  unfold flagSample
  dsimp only
  split <;> rfl

/-- The vacancy (R107). -/
theorem vacancy_frame (s : State) :
    vacancy s =
      { s with win := (vacancy s).win } := by
  unfold vacancy
  dsimp only
  split <;> rfl

/-- A DIGEST cell is read (R87). -/
theorem digestSample_frame (o : OthersDrive) (s : State) :
    digestSample o s =
      { s with win := (digestSample o s).win } := by
  unfold digestSample
  dsimp only
  split <;> rfl

/-- The pass result (R92). -/
theorem passResult_frame (s : State) :
    passResult s =
      { s with win := (passResult s).win } := by
  unfold passResult
  dsimp only
  split <;> rfl

/-- An ASSENT cell is read (R93). -/
theorem assentSample_frame (o : OthersDrive) (s : State) :
    assentSample o s =
      { s with win := (assentSample o s).win, peers := (assentSample o s).peers } := by
  unfold assentSample
  dsimp only
  split <;> rfl

/-- The decision at cell 60 (R94). -/
theorem passDecision_frame (s : State) :
    passDecision s =
      { s with nextRec := (passDecision s).nextRec, key := (passDecision s).key, ev := (passDecision s).ev } := by
  obtain ⟨n0, k1, e2, h⟩ : ∃ n0 k1 e2, passDecision s =
      { s with nextRec := n0, key := k1, ev := e2 } := by
    unfold passDecision
    dsimp only
    split
    · split
      · exact ⟨_, _, _, decidePass_frame _ s⟩
      · exact ⟨_, _, _, rfl⟩
    · exact ⟨_, _, _, rfl⟩
  rw [h]

/-- The BIDDING cell is read (R112). -/
theorem biddingSample_frame (o : OthersDrive) (s : State) :
    biddingSample o s =
      { s with win := (biddingSample o s).win, key := (biddingSample o s).key, ev := (biddingSample o s).ev } := by
  obtain ⟨w0, k1, e2, h⟩ : ∃ w0 k1 e2, biddingSample o s =
      { s with win := w0, key := k1, ev := e2 } := by
    unfold biddingSample
    dsimp only
    split
    · exact ⟨_, _, _, (resolveYield_frame _ _).trans rfl⟩
    · exact ⟨_, _, _, rfl⟩
  rw [h]

/-- A BIDVALUE cell is read (R109, R110). -/
theorem bidvalueSample_frame (o : OthersDrive) (s : State) :
    bidvalueSample o s =
      { s with win := (bidvalueSample o s).win, key := (bidvalueSample o s).key } := by
  unfold bidvalueSample
  dsimp only
  split
  · split <;> rfl
  · rfl

/-- The window closes (R88). -/
theorem windowClose_frame (s : State) :
    windowClose s =
      { s with
        win := (windowClose s).win
        winRec := (windowClose s).winRec
        peers := (windowClose s).peers
        key := (windowClose s).key
        dec := (windowClose s).dec
        ev := (windowClose s).ev } := by
  obtain ⟨w0, w1, p2, k3, d4, e5, h⟩ : ∃ w0 w1 p2 k3 d4 e5, windowClose s =
      { s with win := w0, winRec := w1, peers := p2, key := k3, dec := d4, ev := e5 } := by
    unfold windowClose
    dsimp only
    split
    · split
      · exact ⟨_, _, _, _, _, _, closeWith_frame _ _ s⟩
      · exact ⟨_, _, _, _, _, _, rfl⟩
    · exact ⟨_, _, _, _, _, _, rfl⟩
  rw [h]

/-! ### Keying and edge -/

/-- A tick begins (R125). -/
theorem tickStart_frame (s : State) :
    tickStart s =
      { s with keying := (tickStart s).keying, dec := (tickStart s).dec } := by
  obtain ⟨k0, d1, h⟩ : ∃ k0 d1, tickStart s =
      { s with keying := k0, dec := d1 } := by
    unfold tickStart
    dsimp only
    split
    · exact ⟨_, _, congrArg (fun t : State => { t with keying := { t.keying with nextTick := s.keying.nextTick + 1 } })
        (State.putLines_frame _ _ s)⟩
    · exact ⟨_, _, rfl⟩
  rw [h]

/-- A strobe ends (R2). -/
theorem strobeEnd_frame (s : State) :
    strobeEnd s =
      { s with keying := (strobeEnd s).keying, dec := (strobeEnd s).dec } := by
  obtain ⟨k0, d1, h⟩ : ∃ k0 d1, strobeEnd s =
      { s with keying := k0, dec := d1 } := by
    unfold strobeEnd
    dsimp only
    split
    · exact ⟨_, _, (congrArg (State.driveLoop _ _) (State.driveBus_frame _ _ s)).trans (State.driveLoop_frame _ _ _)⟩
    · exact ⟨_, _, rfl⟩
  rw [h]

/-- The readback (R113). -/
theorem kylReadback_frame (s : State) :
    kylReadback s =
      { s with
        key := (kylReadback s).key
        keying := (kylReadback s).keying
        dec := (kylReadback s).dec
        ev := (kylReadback s).ev } := by
  obtain ⟨k0, k1, d2, e3, h⟩ : ∃ k0 k1 d2 e3, kylReadback s =
      { s with key := k0, keying := k1, dec := d2, ev := e3 } := by
    unfold kylReadback
    split
    · exact ⟨_, _, _, _, State.collide_frame _ s⟩
    · exact ⟨_, _, _, _, rfl⟩
  rw [h]

/-- A change of the keying bus (R127). -/
theorem busChange_frame (t : Instant) (peer : KeyingLines) (s : State) :
    busChange t peer s =
      { s with keying := (busChange t peer s).keying, dec := (busChange t peer s).dec } := by
  unfold busChange
  dsimp only
  split <;> rfl

/-- The own minute boundary. -/
theorem minuteBoundary_frame (m : Nat) (s : State) :
    minuteBoundary m s =
      { s with
        handedOver := (minuteBoundary m s).handedOver
        zone := (minuteBoundary m s).zone
        store := (minuteBoundary m s).store
        lanes := (minuteBoundary m s).lanes
        next := (minuteBoundary m s).next
        current := (minuteBoundary m s).current
        nextRec := (minuteBoundary m s).nextRec
        curRec := (minuteBoundary m s).curRec
        key := (minuteBoundary m s).key
        dec := (minuteBoundary m s).dec
        ev := (minuteBoundary m s).ev } := by
  obtain ⟨o, z0, s1, l2, n3, c4, n5, c6, k7, d8, e9, h⟩ : ∃ o z0 s1 l2 n3 c4 n5 c6 k7 d8 e9, minuteBoundary m s =
      { s with
        handedOver := o
        zone := z0
        store := s1
        lanes := l2
        next := n3
        current := c4
        nextRec := n5
        curRec := c6
        key := k7
        dec := d8
        ev := e9 } := by
    exact ⟨_, _, _, _, _, _, _, _, _, _, _, (congrArg (fun t => proofBegin (handOver (listenBoundary (zoneDue m (proofJudge
        (takeCredit (closeAirMinute m s).2 s.current (countdowns t))))))) (closeAirMinute_frame m s)).trans
      ((congrArg (fun t => proofBegin (handOver (listenBoundary (zoneDue m (proofJudge t)))))
        (takeCredit_frame _ _ _)).trans
      ((congrArg (fun t => proofBegin (handOver (listenBoundary (zoneDue m t)))) (proofJudge_frame _)).trans
      ((congrArg (fun t => proofBegin (handOver (listenBoundary t))) (zoneDue_frame m _)).trans
      ((congrArg (fun t => proofBegin (handOver t)) (listenBoundary_frame _)).trans
      ((congrArg proofBegin (handOver_frame _)).trans (proofBegin_frame _))))))⟩
  rw [h]

end Sys2Proof.Machine
end

