-- ==== Sys2Proof/Laws/Events.lean ====
section
/-! SUPPORT. The event latches: what raising an event does to each latch, and the condition on bit 23 (R182, R183). -/

namespace Sys2Proof.Machine

/-- No event has bit 23. -/
theorem Event.bit_and_noEventBit (e : Event) : e.bit &&& noEventBit = 0 := by cases e <;> decide

/-- Two events share no bit, and an event shares its own. -/
theorem Event.bit_and_bit (e f : Event) : (e.bit &&& f.bit != 0) = decide (e = f) := by
  cases e <;> cases f <;> decide

/-- A latch after an event is raised. -/
theorem State.raise_latched (e f : Event) (s : State) : (s.raise e).latched f = (decide (e = f) || s.latched f) := by
  have h := Event.bit_and_bit e f
  simp only [State.latched, State.raise_ev, BitVec.and_or_distrib_right] at *
  rw [← h]
  generalize e.bit &&& f.bit = x
  generalize s.ev.latches &&& f.bit = y
  have hz : x ||| y = 0 ↔ x = 0 ∧ y = 0 := by
    constructor
    · intro h
      refine ⟨?_, ?_⟩ <;> apply BitVec.eq_of_getLsbD_eq <;> intro i hi <;> have := congrArg (·.getLsbD i) h <;>
        simp_all
    · rintro ⟨rfl, rfl⟩
      simp
  have hy' : ∀ z : Word24, (z != 0) = !decide (z = 0) := fun z => by
    rw [Bool.eq_iff_iff]
    simp
  rw [BitVec.or_comm, hy', hy', hy']
  simp only [hz]
  by_cases hx : x = 0 <;> by_cases hy : y = 0 <;> simp [hx, hy]

/-- A latch after an event is raised if a condition holds. -/
theorem State.raiseIf_latched (c : Bool) (e f : Event) (s : State) :
    (s.raiseIf c e).latched f = (c && decide (e = f) || s.latched f) := by
  cases c
  · simp [State.raiseIf]
  · simp [State.raiseIf, State.raise_latched]

/-- Whether a latch is set depends on the event unit alone. -/
theorem State.latched_of_ev {s t : State} (h : t.ev = s.ev) (e : Event) : t.latched e = s.latched e := by
  simp [State.latched, h]

/-- Bit 23 stays 0 when an event is raised. -/
theorem State.raise_eventsOk (e : Event) (s : State) (h : s.eventsOk) : (s.raise e).eventsOk := by
  refine ⟨?_, h.2⟩
  have h1 := h.1
  have h2 := Event.bit_and_noEventBit e
  simp only [State.raise_ev, BitVec.and_or_distrib_right, h1, h2]
  decide

/-- Bit 23 stays 0 when an event is raised if a condition holds. -/
theorem State.raiseIf_eventsOk (c : Bool) (e : Event) (s : State) (h : s.eventsOk) : (s.raiseIf c e).eventsOk := by
  cases c
  · exact h
  · exact State.raise_eventsOk e s h

/-- The condition on bit 23 depends on the event unit alone. -/
theorem State.eventsOk_of_ev {s t : State} (h : t.ev = s.ev) (hs : s.eventsOk) : t.eventsOk := by
  unfold State.eventsOk at *
  rwa [h]

end Sys2Proof.Machine
end

