-- ==== Sys2Proof/Laws/Latches.lean ====
section
/-! SUPPORT. No operation of an own edge clears a latch (R182): one lemma per operation that raises events, `…_latched`, saying
that what was latched before it is latched after it, and one lemma `…_raises`, saying which events alone it can latch. -/

namespace Sys2Proof.Machine

/-- Raising keeps a latch. -/
theorem State.raise_keeps_latched (e f : Event) (s : State) (h : s.latched f = true) : (s.raise e).latched f = true := by
  simp [State.raise_latched, h]

/-- Raising if a condition holds keeps a latch. -/
theorem State.raiseIf_keeps_latched (c : Bool) (e f : Event) (s : State) (h : s.latched f = true) :
    (s.raiseIf c e).latched f = true := by
  simp [State.raiseIf_latched, h]

/-- A lane event keeps a latch. -/
theorem State.laneEvent_keeps_latched (l : LaneNo) (e f : Event) (s : State) (h : s.latched f = true) :
    (s.laneEvent l e).latched f = true := State.raise_keeps_latched e f _ h

/-- An arrival keeps a latch. -/
theorem arrive_latched (f : Event) (l : LaneNo) (b : Bool) (s : State) (h : s.latched f = true) :
    (arrive l b s).latched f = true := by
  unfold arrive
  dsimp only
  repeat' split
  all_goals first
    | exact h
    | exact State.laneEvent_keeps_latched _ _ _ _ h

/-- A write-back keeps a latch. -/
theorem writeBack_latched (f : Event) (l : LaneNo) (k : Option DescIndex) (s : State) (h : s.latched f = true) :
    (writeBack l k s).latched f = true := by
  unfold writeBack
  dsimp only
  apply arrive_latched
  split
  · exact State.laneEvent_keeps_latched _ _ _ _ h
  · exact h

/-- A credit keeps a latch. -/
theorem credit_latched (f : Event) (l : LaneNo) (i : DescIndex) (s : State) (h : s.latched f = true) :
    (credit l i s).latched f = true := by
  have h2 : ∀ t : State, t.ev = s.ev → t.latched f = true := fun t ht => (State.latched_of_ev ht f).trans h
  have he : ∀ (k : Option DescIndex) (t : State), t.ev = s.ev → (creditEnd l k t).latched f = true := by
    intro k t ht
    unfold creditEnd
    dsimp only
    split
    · exact h2 _ ht
    · exact writeBack_latched _ _ _ _ (h2 _ ht)
  unfold credit
  dsimp only
  split
  · exact he _ _ rfl
  · exact arrive_latched _ _ _ _ (h2 _ rfl)

/-- Taking credit keeps a latch. -/
theorem takeCredit_latched (f : Event) (r : Option AirRecord) (d : Option Draft) (s : State) (h : s.latched f = true) :
    (takeCredit r d s).latched f = true := by
  unfold takeCredit
  repeat' split
  all_goals first
    | exact h
    | exact credit_latched _ _ _ _ h

/-- Closing the air minute keeps a latch. -/
theorem closeAirMinute_latched (f : Event) (m : Nat) (s : State) (h : s.latched f = true) :
    (closeAirMinute m s).1.latched f = true := by
  unfold closeAirMinute
  dsimp only
  split
  · exact h
  · exact State.raiseIf_keeps_latched _ _ _ _ h

/-- A zone entry falling due keeps a latch. -/
theorem zoneDue_latched (f : Event) (c : Nat) (s : State) (h : s.latched f = true) :
    (zoneDue c s).latched f = true := by
  unfold zoneDue
  split
  · exact State.raise_keeps_latched _ _ _ h
  · exact h

/-- The judgement of a proof keeps a latch. -/
theorem proofJudge_latched (f : Event) (s : State) (h : s.latched f = true) : (proofJudge s).latched f = true := by
  unfold proofJudge
  repeat' split
  all_goals first
    | exact h
    | exact State.raise_keeps_latched _ _ _ h

/-- An own minute boundary keeps a latch. -/
theorem minuteBoundary_latched (f : Event) (m : Nat) (s : State) (h : s.latched f = true) :
    (minuteBoundary m s).latched f = true := by
  unfold minuteBoundary
  dsimp only
  rw [proofBegin_frame, handOver_frame, listenBoundary_frame]
  refine zoneDue_latched f _ _ (proofJudge_latched f _ (takeCredit_latched f _ _ _ ?_))
  rw [countdowns_frame]
  exact closeAirMinute_latched f _ _ h

/-- The key state's part of an own edge keeps a latch. -/
theorem keyEdge_latched (f : Event) (b : Bool) (s : State) (h : s.latched f = true) : (keyEdge b s).latched f = true := by
  unfold keyEdge
  dsimp only
  repeat' split
  all_goals first
    | exact h
    | exact State.raise_keeps_latched _ _ _ h

/-- Examining the lanes keeps a latch. -/
theorem examineLanes_latched (f : Event) (ls : List LaneNo) (acc : State × Option (LaneNo × DescIndex))
    (h : acc.1.latched f = true) : (ls.foldl examineLane acc).1.latched f = true := by
  induction ls generalizing acc with
  | nil => exact h
  | cons l ls ih =>
    apply ih
    unfold examineLane
    dsimp only
    repeat' split
    all_goals first
      | exact h
      | exact State.laneEvent_keeps_latched _ _ _ _ h

/-- The choice of segment keeps a latch. -/
theorem laneChoice_latched (f : Event) (s : State) (h : s.latched f = true) : (laneChoice s).1.latched f = true := by
  unfold laneChoice
  have h1 := examineLanes_latched f s.laneOrder (s, none) h
  dsimp only
  repeat' split
  all_goals first
    | exact h1
    | exact State.laneEvent_keeps_latched _ _ _ _ h1

/-- A freeze keeps a latch. -/
theorem freezeEdge_latched (f : Event) (b : KeyState) (r : Bool) (s : State) (h : s.latched f = true) :
    (freezeEdge b r s).latched f = true := by
  have hn : ∀ (d : Draft) (t : State), t.latched f = true → (holdNext d t).latched f = true := fun _ _ h => h
  have ha : ∀ q, (askLanes q (clearAssentPasses s)).1.latched f = true := by
    intro q
    unfold askLanes
    split
    · exact h
    · exact laneChoice_latched f _ h
  unfold freezeEdge freeze
  dsimp only
  repeat' split
  all_goals first
    | exact h
    | exact ha _

/-- The tracker's part of an own edge keeps a latch. -/
theorem trackerEdge_latched (f : Event) (s : State) (h : s.latched f = true) : (trackerEdge s).latched f = true :=
  State.raiseIf_keeps_latched _ _ _ _ (State.raiseIf_keeps_latched _ _ _ _ h)

/-- The decoder's part of an own edge keeps a latch. -/
theorem secondEnds_latched (f : Event) (r : Bool) (e : Instant) (s : State) (h : s.latched f = true) :
    (secondEnds r e s).latched f = true := by
  have hc : ∀ (x : SecondEntry) (t : State), t.latched f = true → (cueStep x t).latched f = true := by
    intro x t ht
    unfold cueStep
    repeat' split
    all_goals first
      | exact ht
      | exact State.raise_keeps_latched _ _ _ ht
  unfold secondEnds
  dsimp only
  repeat' split
  all_goals first
    | exact h
    | exact hc _ _ h

/-- The window's part of an own edge keeps a latch. -/
theorem endWindow_latched (f : Event) (s : State) (h : s.latched f = true) : (endWindow s).latched f = true := by
  have hm : (missPass s).latched f = true := by rw [missPass_frame]; exact h
  have hc : (cancelUnreadYield (missPass s)).latched f = true := by
    unfold cancelUnreadYield resolveYield
    repeat' split
    all_goals first
      | exact hm
      | exact State.raise_keeps_latched _ _ _ hm
  have hd : (closeDead s).latched f = true := State.raiseIf_keeps_latched _ _ _ _ hc
  unfold endWindow
  split
  · exact hd
  · exact hm
  · exact h

/-! ### What each operation can latch -/

/-- Raising an event latches no other. -/
theorem State.raise_raises {e f : Event} (s : State) (h : f ≠ e) : (s.raise e).latched f = s.latched f := by
  simp [State.raise_latched, Ne.symm h]

/-- Raising an event if a condition holds latches no other. -/
theorem State.raiseIf_raises {e f : Event} (c : Bool) (s : State) (h : f ≠ e) :
    (s.raiseIf c e).latched f = s.latched f := by
  simp [State.raiseIf_latched, Ne.symm h]

/-- A lane event latches no other. -/
theorem State.laneEvent_raises {e f : Event} (l : LaneNo) (s : State) (h : f ≠ e) :
    (s.laneEvent l e).latched f = s.latched f := State.raise_raises _ h

/-- An arrival can latch LANE_STARVED or LANE_FAULT. -/
theorem arrive_raises {f : Event} (l : LaneNo) (b : Bool) (s : State) (h1 : f ≠ .laneStarved) (h2 : f ≠ .laneFault) :
    (arrive l b s).latched f = s.latched f := by
  unfold arrive
  dsimp only
  repeat' split
  all_goals first
    | rfl
    | exact State.laneEvent_raises _ _ h1
    | exact State.laneEvent_raises _ _ h2

/-- A write-back can latch ANNOUNCE_DONE, LANE_STARVED or LANE_FAULT. -/
theorem writeBack_raises {f : Event} (l : LaneNo) (k : Option DescIndex) (s : State) (h1 : f ≠ .laneStarved)
    (h2 : f ≠ .laneFault) (h3 : f ≠ .announceDone) : (writeBack l k s).latched f = s.latched f := by
  unfold writeBack
  dsimp only
  rw [arrive_raises _ _ _ h1 h2]
  show State.latched f (if _ then _ else _) = _
  split
  · exact State.laneEvent_raises _ _ h3
  · rfl

/-- Taking credit can latch ANNOUNCE_DONE, LANE_STARVED or LANE_FAULT. -/
theorem takeCredit_raises {f : Event} (r : Option AirRecord) (d : Option Draft) (s : State) (h1 : f ≠ .laneStarved)
    (h2 : f ≠ .laneFault) (h3 : f ≠ .announceDone) : (takeCredit r d s).latched f = s.latched f := by
  have he : ∀ (l : LaneNo) (k : Option DescIndex) (t : State), (creditEnd l k t).latched f = t.latched f := by
    intro l k t
    unfold creditEnd
    dsimp only
    split
    · rfl
    · exact writeBack_raises _ _ _ h1 h2 h3
  have hc : ∀ (l : LaneNo) (i : DescIndex), (credit l i s).latched f = s.latched f := by
    intro l i
    unfold credit
    dsimp only
    split
    · exact he _ _ _
    · exact arrive_raises _ _ _ h1 h2
  unfold takeCredit
  repeat' split
  all_goals first
    | rfl
    | exact hc _ _

/-- Closing the air minute can latch AIR_INCOMPLETE. -/
theorem closeAirMinute_raises {f : Event} (m : Nat) (s : State) (h : f ≠ .airIncomplete) :
    (closeAirMinute m s).1.latched f = s.latched f := by
  unfold closeAirMinute
  dsimp only
  split
  · rfl
  · exact State.raiseIf_raises _ _ h

/-- A zone entry falling due can latch ZONE_APPLIED. -/
theorem zoneDue_raises {f : Event} (c : Nat) (s : State) (h : f ≠ .zoneApplied) :
    (zoneDue c s).latched f = s.latched f := by
  unfold zoneDue
  split
  · exact State.raise_raises _ h
  · rfl

/-- The judgement of a proof can latch PROVEN or PROVING_FAILED. -/
theorem proofJudge_raises {f : Event} (s : State) (h1 : f ≠ .proven) (h2 : f ≠ .provingFailed) :
    (proofJudge s).latched f = s.latched f := by
  unfold proofJudge
  repeat' split
  all_goals first
    | rfl
    | exact State.raise_raises _ h1
    | exact State.raise_raises _ h2

/-- The key state's part of an own edge can latch FENCED, KEY_TAKEN, KEY_RELEASED or YIELD_CANCELLED. -/
theorem keyEdge_raises {f : Event} (b : Bool) (s : State) (h1 : f ≠ .fenced) (h2 : f ≠ .keyTaken)
    (h3 : f ≠ .keyReleased) (h4 : f ≠ .yieldCancelled) : (keyEdge b s).latched f = s.latched f := by
  unfold keyEdge
  dsimp only
  repeat' split
  all_goals first
    | rfl
    | exact State.raise_raises _ h1
    | exact State.raise_raises _ h2
    | exact State.raise_raises _ h3
    | exact State.raise_raises _ h4

/-- The tracker's part of an own edge can latch REF_EXPIRED or LEAP_APPLIED. -/
theorem trackerEdge_raises {f : Event} (s : State) (h1 : f ≠ .refExpired) (h2 : f ≠ .leapApplied) :
    (trackerEdge s).latched f = s.latched f := by
  unfold trackerEdge
  dsimp only
  rw [State.raiseIf_raises _ _ h2, State.raiseIf_raises _ _ h1]
  rfl

/-- The decoder's part of an own edge can latch CUE. -/
theorem secondEnds_raises {f : Event} (r : Bool) (e : Instant) (s : State) (h : f ≠ .cue) :
    (secondEnds r e s).latched f = s.latched f := by
  have hc : ∀ (x : SecondEntry) (t : State), (cueStep x t).latched f = t.latched f := by
    intro x t
    unfold cueStep
    repeat' split
    all_goals first
      | rfl
      | exact State.raise_raises _ h
  unfold secondEnds
  dsimp only
  repeat' split
  all_goals first
    | rfl
    | exact hc _ _

/-- The window's part of an own edge can latch SKEW or YIELD_CANCELLED. -/
theorem endWindow_raises {f : Event} (s : State) (h1 : f ≠ .skew) (h2 : f ≠ .yieldCancelled) :
    (endWindow s).latched f = s.latched f := by
  have hm : (missPass s).latched f = s.latched f := by rw [missPass_frame]; rfl
  have hc : (cancelUnreadYield (missPass s)).latched f = s.latched f := by
    unfold cancelUnreadYield resolveYield
    dsimp only
    repeat' split
    all_goals first
      | exact hm
      | exact (State.raise_raises _ h2).trans hm
  unfold endWindow
  split
  · exact (State.raiseIf_raises _ _ h1).trans hc
  · exact hm
  · rfl

end Sys2Proof.Machine
end

