-- ==== Sys2Proof/Laws/Edge.lean ====
section
/-! SUPPORT. The own edge, cut into its parts: what stands when the tracker has acted (`State.edgeCounted`), and the three forms
of the rest, at a minute boundary, at a freeze, and at any other edge. -/

namespace Sys2Proof.Machine

/-- Whether the window of the second that ends was opened. -/
def State.windowRead (s : State) : Bool := s.win.phase != .waiting

/-- The state at an own edge when the window and the second that end have been dealt with, the lines are released and the tracker
has acted. -/
def State.edgeCounted (s : State) : State :=
  trackerEdge ((secondEnds s.windowRead s.trk.nextEdge (endWindow s)).releaseKeying s.trk.nextEdge)

/-- No own edge is both a boundary and a freeze. -/
theorem Tracker.freezeNext_of_boundary (t : Tracker) (h : t.boundaryNext = true) : t.freezeNext = false := by
  simp only [Tracker.boundaryNext, Bool.and_eq_true] at h
  simp [Tracker.freezeNext, h.2]

/-- Driving the keying bus leaves the tracker, so an edge's tracker is the one before it, advanced. -/
theorem State.edgeCounted_trk (s : State) : s.edgeCounted.trk = s.trk.atEdge := by
  unfold State.edgeCounted
  rw [State.releaseKeying_frame, secondEnds_frame, endWindow_frame]
  simp [trackerEdge]

/-- What the first part of an own edge does not touch. -/
theorem State.edgeCounted_frame (s : State) :
    s.edgeCounted =
      { s with
        trk := s.edgeCounted.trk
        nextRec := s.edgeCounted.nextRec
        win := s.edgeCounted.win
        winRec := s.edgeCounted.winRec
        peers := s.edgeCounted.peers
        key := s.edgeCounted.key
        keying := s.edgeCounted.keying
        dec := s.edgeCounted.dec
        ev := s.edgeCounted.ev } := by
  unfold State.edgeCounted
  rw [trackerEdge_frame, State.releaseKeying_frame, secondEnds_frame, endWindow_frame]

/-- The window, its record, the peer table and the NEXT record after the first part are those that the window's end leaves. -/
theorem State.edgeCounted_window (s : State) :
    s.edgeCounted.win = (endWindow s).win ∧ s.edgeCounted.winRec = (endWindow s).winRec
      ∧ s.edgeCounted.peers = (endWindow s).peers ∧ s.edgeCounted.nextRec = (endWindow s).nextRec := by
  unfold State.edgeCounted
  rw [trackerEdge_frame, State.releaseKeying_frame, secondEnds_frame]
  exact ⟨rfl, rfl, rfl, rfl⟩

/-- The key items after the first part are those that the window's end and the decoder leave. -/
theorem State.edgeCounted_key (s : State) :
    s.edgeCounted.key = (secondEnds s.windowRead s.trk.nextEdge (endWindow s)).key := by
  unfold State.edgeCounted
  rw [trackerEdge_frame, State.releaseKeying_frame]

/-- Releasing the lines touches no part of the decoder but its records of the lines. -/
theorem State.releaseKeying_dec (t : Instant) (s : State) :
    ∃ bus loop, (s.releaseKeying t).dec = { s.dec with busTrace := bus, loopTrace := loop } := by
  unfold State.releaseKeying State.driveLoop State.driveBus
  dsimp only
  repeat' split
  all_goals exact ⟨_, _, rfl⟩

/-- After the first part no line of the bus or the loop is driven. -/
theorem State.edgeCounted_keying (s : State) :
    s.edgeCounted.keying = { s.keying with own := linesReleased, loop := linesReleased } := by
  unfold State.edgeCounted
  rw [trackerEdge_frame]
  simp only [State.releaseKeying_keying]
  rw [secondEnds_frame, endWindow_frame]

/-- What the reading of a reference state in the proof minute touches. -/
theorem proofReferenceCheck_key (s : State) :
    ∃ b, (proofReferenceCheck s).key = { s.key with proof := { s.key.proof with refHeld := b } } := by
  unfold proofReferenceCheck
  split
  · exact ⟨false, rfl⟩
  · exact ⟨s.key.proof.refHeld, rfl⟩

/-- The reading of the reference state in the proof minute is `KeyCtl.referenceRead` on the key items, and nothing else. -/
theorem proofReferenceCheck_eq (s : State) :
    proofReferenceCheck s = { s with key := s.key.referenceRead s.trk.refState } := by
  unfold proofReferenceCheck KeyCtl.referenceRead
  cases s.key.proof.running <;> cases s.trk.refState <;> rfl

/-- The own edge at a minute boundary. -/
theorem ownEdge_of_boundary (s : State) (h : s.trk.boundaryNext = true) :
    ownEdge s =
      proofReferenceCheck (beginSecond (keyEdge true (minuteBoundary s.trk.atEdge.minute s.edgeCounted))) := by
  have hf := Tracker.freezeNext_of_boundary _ h
  rw [← State.edgeCounted_trk]
  simp only [ownEdge, State.edgeCounted, h, hf, if_true]
  rfl

/-- The own edge at a freeze. -/
theorem ownEdge_of_freeze (s : State) (h : s.trk.freezeNext = true) :
    ownEdge s =
      proofReferenceCheck
        (beginSecond (freezeEdge s.edgeCounted.key.state s.windowRead (keyEdge false s.edgeCounted))) := by
  have hb : s.trk.boundaryNext = false := by
    cases hb : s.trk.boundaryNext
    · rfl
    · rw [Tracker.freezeNext_of_boundary _ hb] at h
      cases h
  simp only [ownEdge, State.edgeCounted, h, hb, if_true]
  rfl

/-- Any other own edge. -/
theorem ownEdge_of_plain (s : State) (hb : s.trk.boundaryNext = false) (hf : s.trk.freezeNext = false) :
    ownEdge s = proofReferenceCheck (beginSecond (keyEdge false s.edgeCounted)) := by
  simp only [ownEdge, State.edgeCounted, hb, hf]
  rfl

/-- Every own edge ends with the second that begins, and before that no part but these was written. -/
theorem ownEdge_form (s : State) :
    ∃ u : State, ownEdge s = proofReferenceCheck (beginSecond u)
      ∧ u =
        { s.edgeCounted with
          freeIdx := u.freeIdx
          handedOver := u.handedOver
          zone := u.zone
          store := u.store
          lanes := u.lanes
          next := u.next
          current := u.current
          nextRec := u.nextRec
          curRec := u.curRec
          peers := u.peers
          key := u.key
          dec := u.dec
          ev := u.ev } := by
  cases hb : s.trk.boundaryNext
  · cases hf : s.trk.freezeNext
    · refine ⟨_, ownEdge_of_plain s hb hf, ?_⟩
      rw [keyEdge_frame]
    · refine ⟨_, ownEdge_of_freeze s hf, ?_⟩
      rw [freezeEdge_frame, keyEdge_frame]
  · refine ⟨_, ownEdge_of_boundary s hb, ?_⟩
    rw [keyEdge_frame, minuteBoundary_frame]

/-- The tracker after an own edge. -/
theorem ownEdge_trk (s : State) : (ownEdge s).trk = s.trk.atEdge := by
  obtain ⟨u, h, hu⟩ := ownEdge_form s
  rw [h, proofReferenceCheck_frame]
  show u.trk = _
  rw [hu]
  exact State.edgeCounted_trk s

/-- The window after an own edge waits. -/
theorem ownEdge_win (s : State) : (ownEdge s).win = Window.neutral .waiting := by
  obtain ⟨u, h, -⟩ := ownEdge_form s
  rw [h, proofReferenceCheck_frame]
  rfl

/-- Straps, supply, requests, link, queue and window record are not the own edge's to change, but for a cut window's record. -/
theorem ownEdge_static (s : State) :
    (ownEdge s).pending = s.pending ∧ (ownEdge s).pwr = s.pwr ∧ (ownEdge s).straps = s.straps
      ∧ (ownEdge s).req = s.req ∧ (ownEdge s).link = s.link ∧ (ownEdge s).winRec = (endWindow s).winRec := by
  obtain ⟨u, h, hu⟩ := ownEdge_form s
  rw [h, proofReferenceCheck_frame]
  have h1 := State.edgeCounted_frame s
  have h2 := (State.edgeCounted_window s).2.1
  refine ⟨?_, ?_, ?_, ?_, ?_, ?_⟩
  · show u.pending = _; rw [hu, h1]
  · show u.pwr = _; rw [hu, h1]
  · show u.straps = _; rw [hu, h1]
  · show u.req = _; rw [hu, h1]
  · show u.link = _; rw [hu, h1]
  · show u.winRec = _; rw [hu]; exact h2

/-- The keying generator after an own edge. -/
theorem ownEdge_keying (s : State) :
    (ownEdge s).keying.nextTick = 0 ∧ (ownEdge s).keying.own = linesReleased
      ∧ (ownEdge s).keying.loop = linesReleased ∧ (ownEdge s).keying.peer = s.keying.peer
      ∧ (ownEdge s).keying.out = (ownEdge s).selectedOutput := by
  obtain ⟨u, h, hu⟩ := ownEdge_form s
  have hk := State.edgeCounted_keying s
  have hp := proofReferenceCheck_key (beginSecond u)
  have hs : ∀ x : State, (proofReferenceCheck x).selectedOutput = x.selectedOutput := by
    intro x
    unfold proofReferenceCheck
    split <;> rfl
  rw [h, hs, proofReferenceCheck_frame]
  have e : u.keying = s.edgeCounted.keying := by rw [hu]
  rw [hk] at e
  refine ⟨rfl, ?_, ?_, ?_, rfl⟩
  · show u.keying.own = _; rw [e]
  · show u.keying.loop = _; rw [e]
  · show u.keying.peer = _; rw [e]

/-- The parts of a minute boundary before its hand-over leave NEXT, its record and the note of a hand-over. -/
theorem minuteBoundary_handOver (m : Nat) (s : State) :
    ∃ e : State, minuteBoundary m s = proofBegin (handOver e) ∧ e.next = s.next ∧ e.nextRec = s.nextRec
      ∧ e.handedOver = s.handedOver := by
  have h1 := closeAirMinute_frame m s
  generalize hx : closeAirMinute m s = x at h1
  obtain ⟨x1, x2⟩ := x
  dsimp only at h1
  refine ⟨listenBoundary (zoneDue m (proofJudge (takeCredit x2 s.current (countdowns x1)))), ?_, ?_⟩
  · simp only [minuteBoundary, hx]
  · rw [listenBoundary_frame, zoneDue_frame, proofJudge_frame, takeCredit_frame, h1]
    exact ⟨rfl, rfl, rfl⟩

/-- The hand-over at a minute boundary (R65, R101): the drafts and the records after it. -/
theorem minuteBoundary_drafts (m : Nat) (s : State) :
    (minuteBoundary m s).current = s.next ∧ (minuteBoundary m s).next = none ∧ (minuteBoundary m s).nextRec = none
      ∧ (minuteBoundary m s).curRec = s.nextRec.map ConcordRecord.handedOver := by
  obtain ⟨e, h, hn, hr, -⟩ := minuteBoundary_handOver m s
  rw [h, proofBegin_frame, ← hn, ← hr]
  exact ⟨rfl, rfl, rfl, rfl⟩

/-- A minute boundary notes the hand-over of a NEXT (R65, R81). -/
theorem minuteBoundary_handedOver (m : Nat) (s : State) :
    (minuteBoundary m s).handedOver = (s.handedOver || s.next.isSome) := by
  obtain ⟨e, h, hn, -, ho⟩ := minuteBoundary_handOver m s
  rw [h, proofBegin_frame, ← hn, ← ho]
  rfl

/-- Only a minute boundary notes a hand-over (R65, R81). -/
theorem ownEdge_handedOver (s : State) :
    (ownEdge s).handedOver = (s.handedOver || (s.trk.boundaryNext && s.next.isSome)) := by
  have h1 : s.edgeCounted.handedOver = s.handedOver ∧ s.edgeCounted.next = s.next := by
    rw [State.edgeCounted_frame]
    exact ⟨rfl, rfl⟩
  cases hb : s.trk.boundaryNext
  · cases hf : s.trk.freezeNext
    · rw [ownEdge_of_plain s hb hf, proofReferenceCheck_frame]
      show (keyEdge false s.edgeCounted).handedOver = _
      rw [keyEdge_frame, Bool.false_and, Bool.or_false, ← h1.1]
    · rw [ownEdge_of_freeze s hf, proofReferenceCheck_frame]
      show (freezeEdge _ _ (keyEdge false s.edgeCounted)).handedOver = _
      rw [freezeEdge_frame, keyEdge_frame, Bool.false_and, Bool.or_false, ← h1.1]
  · rw [ownEdge_of_boundary s hb, proofReferenceCheck_frame]
    show (keyEdge true (minuteBoundary _ s.edgeCounted)).handedOver = _
    rw [keyEdge_frame, Bool.true_and, ← h1.1, ← h1.2]
    exact minuteBoundary_handedOver _ _

/-! ### The decoder's records of the lines (R127) -/

/-- What the decoder has of the lines: the bus, then the loop, each with its level before the record and its changes. -/
def Decoder.lines (d : Decoder) : (KeyingLines × List LineSample) × (KeyingLines × List LineSample) :=
  ((d.busBase, d.busTrace), (d.loopBase, d.loopTrace))

/-- The release of the lines at an instant, as the decoder has it (R125, R127). -/
theorem State.releaseKeying_lines (t : Instant) (s : State) :
    (s.releaseKeying t).dec.lines =
      ((s.dec.busBase, s.dec.busTrace ++ (if s.keying.own = linesReleased then [] else [⟨t, s.keying.peer⟩])),
        (s.dec.loopBase, s.dec.loopTrace ++ (if s.keying.loop = linesReleased then [] else [⟨t, linesReleased⟩]))) := by
  unfold State.releaseKeying State.driveLoop State.driveBus
  by_cases h1 : s.keying.own = linesReleased <;> by_cases h2 : s.keying.loop = linesReleased <;>
    simp [h1, h2, Decoder.lines, State.recordBus, State.recordLoop, busLines] <;> rfl

/-- The end of a second leaves the records of the lines. -/
theorem secondEnds_lines (read : Bool) (e : Instant) (s : State) :
    (secondEnds read e s).dec.lines = s.dec.lines := by
  unfold secondEnds
  split
  · rfl
  · dsimp only
    split
    · unfold cueStep proofReport
      repeat' split
      all_goals rfl
    · unfold cueStep
      repeat' split
      all_goals rfl

/-- The end of a window leaves the records of the lines. -/
theorem endWindow_lines (s : State) : (endWindow s).dec.lines = s.dec.lines := by
  have hm : ∀ x : State, (missPass x).dec = x.dec := fun x => by rw [missPass_frame]
  unfold endWindow
  split
  · unfold closeCut closeDead closeWith
    show (State.raiseIf _ _ _).dec.lines = _
    rw [State.raiseIf_dec]
    show (cancelUnreadYield (missPass s)).dec.lines = _
    rw [cancelUnreadYield_frame]
    show (missPass s).dec.lines = _
    rw [hm]
  · rw [hm]
  · rfl

/-- A minute boundary leaves the records of the lines. -/
theorem minuteBoundary_lines (m : Nat) (s : State) : (minuteBoundary m s).dec.lines = s.dec.lines := by
  have hc : (closeAirMinute m s).1.dec.lines = s.dec.lines := by
    unfold closeAirMinute
    split
    · rfl
    · show (State.raiseIf _ _ _).dec.lines = _
      rw [State.raiseIf_dec]
      rfl
  have hd : ∀ (r : Option AirRecord) (d : Option Draft) (x : State),
      (proofBegin (handOver (listenBoundary (zoneDue m (proofJudge (takeCredit r d (countdowns x))))))).dec = x.dec := by
    intro r d x
    have h1 : ∀ y : State, (proofBegin y).dec = y.dec := fun y => by rw [proofBegin_frame]
    have h2 : ∀ y : State, (listenBoundary y).dec = y.dec := fun y => by rw [listenBoundary_frame]
    have h3 : ∀ y : State, (zoneDue m y).dec = y.dec := fun y => by rw [zoneDue_frame]
    have h4 : ∀ y : State, (proofJudge y).dec = y.dec := fun y => by rw [proofJudge_frame]
    have h5 : ∀ y : State, (takeCredit r d y).dec = y.dec := fun y => by rw [takeCredit_frame]
    have h6 : ∀ y : State, (handOver y).dec = y.dec := fun y => rfl
    exact (h1 _).trans ((h6 _).trans ((h2 _).trans ((h3 _).trans ((h4 _).trans (h5 _)))))
  exact (congrArg Decoder.lines (hd _ s.current _)).trans hc

/-- After an own edge the decoder has the lines as they were, released at the edge, from 20 ms before it on (R125, R127). -/
theorem ownEdge_lines (s : State) :
    (ownEdge s).dec.lines =
      (forgetBefore ((ownEdge s).trk.lastEdge - ms 20) s.dec.busBase
          (s.dec.busTrace
            ++ (if s.keying.own = linesReleased then [] else [⟨(ownEdge s).trk.lastEdge, s.keying.peer⟩])),
        forgetBefore ((ownEdge s).trk.lastEdge - ms 20) s.dec.loopBase
          (s.dec.loopTrace
            ++ (if s.keying.loop = linesReleased then [] else [⟨(ownEdge s).trk.lastEdge, linesReleased⟩]))) := by
  have hc : s.edgeCounted.dec.lines =
      ((s.dec.busBase, s.dec.busTrace ++ (if s.keying.own = linesReleased then [] else [⟨s.trk.nextEdge, s.keying.peer⟩])),
        (s.dec.loopBase,
          s.dec.loopTrace ++ (if s.keying.loop = linesReleased then [] else [⟨s.trk.nextEdge, linesReleased⟩]))) := by
    have hl : (secondEnds s.windowRead s.trk.nextEdge (endWindow s)).dec.lines = s.dec.lines := by
      rw [secondEnds_lines, endWindow_lines]
    have hk : (secondEnds s.windowRead s.trk.nextEdge (endWindow s)).keying = s.keying := by
      rw [secondEnds_frame, endWindow_frame]
    unfold State.edgeCounted
    rw [trackerEdge_frame]
    show (State.releaseKeying _ _).dec.lines = _
    rw [State.releaseKeying_lines, hk]
    simp only [Decoder.lines, Prod.mk.injEq] at hl
    rw [hl.1.1, hl.1.2, hl.2.1, hl.2.2]
  have hf : ∀ u : State, u.dec.lines = s.edgeCounted.dec.lines →
      (proofReferenceCheck (beginSecond u)).dec.lines =
        (forgetBefore (u.trk.lastEdge - ms 20) s.edgeCounted.dec.lines.1.1 s.edgeCounted.dec.lines.1.2,
          forgetBefore (u.trk.lastEdge - ms 20) s.edgeCounted.dec.lines.2.1 s.edgeCounted.dec.lines.2.2) := by
    intro u hu
    rw [← hu, proofReferenceCheck_frame]
    rfl
  have ht : (ownEdge s).trk = s.trk.atEdge := ownEdge_trk s
  have he : s.trk.atEdge.lastEdge = s.trk.nextEdge := rfl
  have hu : ∃ u : State, ownEdge s = proofReferenceCheck (beginSecond u) ∧ u.dec.lines = s.edgeCounted.dec.lines := by
    cases hb : s.trk.boundaryNext
    · cases hg : s.trk.freezeNext
      · exact ⟨_, ownEdge_of_plain s hb hg, by rw [keyEdge_frame]⟩
      · exact ⟨_, ownEdge_of_freeze s hg, by rw [freezeEdge_frame, keyEdge_frame]⟩
    · refine ⟨_, ownEdge_of_boundary s hb, ?_⟩
      rw [keyEdge_frame]
      exact minuteBoundary_lines _ _
  obtain ⟨u, h, hl⟩ := hu
  have hut : u.trk.lastEdge = (ownEdge s).trk.lastEdge := by
    rw [h, proofReferenceCheck_frame]
    rfl
  rw [show (ownEdge s).dec.lines = (proofReferenceCheck (beginSecond u)).dec.lines from by rw [h], hf u hl, hut, hc, ht, he]

/-- A boundary's window carries no pass, so the NEXT record is not touched by the end of a window there (R91). -/
theorem endWindow_nextRec_of_boundary (s : State) (h : s.trk.boundaryNext = true) :
    (endWindow s).nextRec = s.nextRec := by
  have hl : minuteLength s.trk.minute s.trk.plan ≤ s.trk.second + 1 := by
    simp only [Tracker.boundaryNext, Tracker.inLastSecond, Bool.and_eq_true, decide_eq_true_eq] at h
    exact h.2.2
  have h59 : 59 ≤ minuteLength s.trk.minute s.trk.plan := by
    unfold minuteLength
    split
    · split <;> decide
    · decide
  have hp : s.windowPass = none := by
    unfold State.windowPass State.windowNumber passOfSecond
    split
    · simp only [Option.bind_some]
      rw [if_neg (by omega), if_neg (by omega), if_neg (by omega)]
    · rfl
  have hm : missPass s = s := by
    unfold missPass
    rw [hp]
  unfold endWindow
  split
  · unfold closeCut closeDead
    dsimp only
    rw [hm, closeWith_frame]
    dsimp only
    rw [cancelUnreadYield_frame]
  · rw [hm]
  · rfl

end Sys2Proof.Machine
end

