-- ==== Sys2Proof/Laws/Draft.lean ====
section
/-! SUPPORT. What a freeze makes (R53 to R62, R89, R118), and what the window's end leaves at an own edge (R71, R74). -/

namespace Sys2Proof.Machine

/-- The answer of the lanes leaves every part but the lanes and the events, and names a descriptor of the store as it is. -/
theorem askLanes_answer (q : Bool) (s : State) :
    (∃ ln e, (askLanes q s).1 = { s with lanes := ln, ev := e })
      ∧ ∀ l i d, (askLanes q s).2 = some (l, i, d) → (laneChoice s).2 = some (l, i) ∧ d = s.desc i := by
  refine ⟨⟨_, _, askLanes_frame q s⟩, ?_⟩
  intro l i d h
  unfold askLanes at h
  cases q
  · simp only [Bool.false_eq_true, if_false] at h
    cases hc : (laneChoice s).2 with
    | none => simp [hc] at h
    | some c =>
      simp only [hc, Option.map_some, Option.some.injEq, Prod.mk.injEq] at h
      obtain ⟨rfl, rfl, rfl⟩ := h
      refine ⟨rfl, ?_⟩
      rw [laneChoice_frame]
      rfl
  · simp at h

/-- A freeze beyond the last minute of 2099 makes nothing (R53). -/
theorem freeze_beyond (key : KeyState) (read : Bool) (s : State) (h : lastMinute < s.trk.minute + 1) :
    freeze key read s = s := by
  simp [freeze, h]

/-- What a freeze makes. -/
theorem freeze_makes (key : KeyState) (read : Bool) (s : State) (h : s.trk.minute + 1 ≤ lastMinute) :
    ∃ (coded : Option CodedPart) (ln : Lanes) (e : EventUnit) (d : Draft),
      d = draftOf (s.trk.minute + 1) coded s.trk.refState key
        ∧ freeze key read s =
          { s with
            lanes := ln
            ev := e
            next := some d
            nextRec := some (.fresh d)
            key :=
              if s.key.state = .proving ∧ s.key.proof.minute = none then
                { s.key with proof := { s.key.proof with minute := some (s.trk.minute + 1) } }
              else s.key }
        ∧ (coded = none ↔ steadyDecided read s.winRec = true)
        ∧ (coded = none → ln = s.lanes ∧ e = s.ev)
        ∧ (coded ≠ none →
          ln = (askLanes (quietDecided read s.winRec) s).1.lanes ∧ e = (askLanes (quietDecided read s.winRec) s).1.ev)
        ∧ ∀ c, coded = some c →
          c =
            codedPart (civilFields s.straps.offset s.zone s.trk.plan (s.trk.minute + 1))
              (s.trk.refState == .holdover) (minuteLength (s.trk.minute + 1) s.trk.plan)
              (askLanes (quietDecided read s.winRec) s).2 := by
  have hm : ¬lastMinute < s.trk.minute + 1 := by omega
  cases hs : steadyDecided read s.winRec
  · obtain ⟨⟨ln, e, ha⟩, -⟩ := askLanes_answer (quietDecided read s.winRec) s
    refine
      ⟨some
          (codedPart (civilFields s.straps.offset s.zone s.trk.plan (s.trk.minute + 1))
            (s.trk.refState == .holdover) (minuteLength (s.trk.minute + 1) s.trk.plan)
            (askLanes (quietDecided read s.winRec) s).2),
        ln, e, _, rfl, ?_, ?_, ?_, ?_, ?_⟩
    rotate_left
    · simp
    · simp
    · intro _
      rw [ha]
      exact ⟨rfl, rfl⟩
    · intro c hc
      exact (Option.some.inj hc).symm
    · simp only [freeze, hm, hs, if_false, Bool.false_eq_true, holdNext, ha]
      rfl
  · refine ⟨none, s.lanes, s.ev, _, rfl, ?_, by simp, fun _ => ⟨rfl, rfl⟩, by simp, by simp⟩
    simp only [freeze, hm, hs, if_false, if_true, holdNext]
    rfl

/-- The window record after the end of a window at an own edge: a dead window's when it was cut, the one held otherwise. -/
theorem endWindow_winRec (s : State) :
    (endWindow s).winRec = if s.win.phase = .opened then some (deadRecord s) else s.winRec := by
  unfold endWindow
  split
  · simp only [closeCut, closeDead, closeWith, State.raiseIf_winRec, if_true, *]
  · rw [missPass_frame]
    simp [*]
  · simp [*]

/-- The peer table after the end of a window at an own edge. -/
theorem endWindow_peers (s : State) :
    (endWindow s).peers = if s.win.phase = .opened then closedPeers s.peers 0 0 else s.peers := by
  unfold endWindow
  split
  · simp only [closeCut, closeDead, closeWith, State.raiseIf_peers, if_true, *]
    rw [cancelUnreadYield_frame, missPass_frame]
    rfl
  · rw [missPass_frame]
    simp [*]
  · simp [*]

/-- The key items after the end of a window at an own edge: as they were, but for what a cut window sets. -/
theorem endWindow_key (s : State) :
    (s.win.phase ≠ .opened → (endWindow s).key = s.key)
      ∧ (s.win.phase = .opened →
        (endWindow s).key =
          { (cancelUnreadYield s).key with
            askewRun := 0, beaconAbsent := true, unsupported := 0, listening := 0, listenOpen := false }) := by
  have hc : (cancelUnreadYield (missPass s)).key = (cancelUnreadYield s).key := by
    unfold cancelUnreadYield resolveYield
    rw [missPass_frame]
    simp only [State.lastSecondWindow, State.windowNumber]
    repeat' split
    all_goals rfl
  refine ⟨fun h => ?_, fun h => ?_⟩
  · unfold endWindow
    split
    · contradiction
    · rw [missPass_frame]
    · rfl
  · unfold endWindow
    rw [h]
    simp only [closeCut, closeDead, closeWith, State.raiseIf_key, hc, keyAtClose, deadRecord, nextAskewRun]
    simp

/-- What a cancelled yield leaves of the key items. -/
theorem cancelUnreadYield_key (s : State) :
    (cancelUnreadYield s).key = s.key
      ∨ (s.key.state = .yielding ∧ s.key.pendingRelease = false ∧ s.key.pendingFence = false
        ∧ (cancelUnreadYield s).key = { s.key with state := .holding }) := by
  unfold cancelUnreadYield resolveYield
  split
  · exact .inl rfl
  · rename_i hp
    split
    · rename_i hy
      right
      simp only [Bool.false_eq_true, if_false, State.raise_key]
      exact ⟨hy.2.2, by simpa using fun h => hp (.inl h), by simpa using fun h => hp (.inr (.inl h)), trivial⟩
    · exact .inl rfl

/-- What the decoder leaves of the key items at an own edge: as they were, but for the count of a proof minute. -/
theorem secondEnds_key (read : Bool) (e : Instant) (s : State) :
    ∃ m b, (secondEnds read e s).key = { s.key with proof := { s.key.proof with matched := m, missed := b } }
      ∧ (s.key.proof.missed = true → b = true) := by
  have hc : ∀ (x : SecondEntry) (t : State), (cueStep x t).key = t.key := by
    intro x t
    rw [cueStep_frame]
  unfold secondEnds
  split
  · exact ⟨s.key.proof.matched, s.key.proof.missed, rfl, fun h => h⟩
  · dsimp only
    split
    · rw [hc]
      unfold proofReport
      dsimp only
      cases (_ && _ : Bool)
      · exact ⟨s.key.proof.matched, true, rfl, fun _ => rfl⟩
      · exact ⟨s.key.proof.matched + 1, s.key.proof.missed, rfl, fun h => h⟩
    · rw [hc]
      exact ⟨s.key.proof.matched, s.key.proof.missed, rfl, fun h => h⟩

end Sys2Proof.Machine
end

