-- ==== Sys2Proof/Laws/Lanes.lean ====
section
/-! SUPPORT. What the examination of the lanes at a freeze finds and does (R151, R152). -/

namespace Sys2Proof.Machine

/-! ### The choice at the freeze -/

/-- A RUNNING lane whose cursor descriptor is malformed (R151). -/
def State.laneMalformed (s : State) (l : LaneNo) : Prop :=
  (s.laneAt l).state = .running
    ∧ ∃ i st, (s.laneAt l).cursor = some i ∧ (s.laneAt l).start = some st
      ∧ malformed l (s.laneAt l) (s.desc i) (s.desc st) = true

/-- A candidate lane with its cursor (R151). -/
def State.laneOffers (s : State) (l : LaneNo) (i : DescIndex) : Prop :=
  (s.laneAt l).state = .running ∧ (s.laneAt l).cursor = some i
    ∧ (∃ st, (s.laneAt l).start = some st ∧ malformed l (s.laneAt l) (s.desc i) (s.desc st) = false)
    ∧ (s.desc i).owner = .generator ∧ (s.desc i).claim = some l

/-- A descriptor depends on the store alone. -/
theorem State.desc_of_store {s t : State} (h : t.store = s.store) (i : DescIndex) : t.desc i = s.desc i := by
  simp [State.desc, h]

/-- A malformed lane is no candidate. -/
theorem State.laneOffers_not_malformed {s : State} {l : LaneNo} {i : DescIndex} (h : s.laneOffers l i) :
    ¬s.laneMalformed l := by
  rintro ⟨-, j, st, h1, h2, h3⟩
  obtain ⟨-, k1, ⟨st', k2, k3⟩, -⟩ := h
  obtain rfl : i = j := Option.some.inj (k1.symm.trans h1)
  obtain rfl : st' = st := Option.some.inj (k2.symm.trans h2)
  rw [h3] at k3
  cases k3

/-- What stands of state `s` when the lanes of `done` have been examined. -/
structure Examined (s : State) (done : List LaneNo) (t : State) : Prop where
  store : t.store = s.store
  bad : ∀ l, l ∈ done → s.laneMalformed l → t.laneAt l = { s.laneAt l with state := .faulted }
  good : ∀ l, ¬(l ∈ done ∧ s.laneMalformed l) → t.laneAt l = s.laneAt l
  fault : t.latched .laneFault = true ↔ s.latched .laneFault = true ∨ ∃ l ∈ done, s.laneMalformed l
  other : ∀ f, f ≠ .laneFault → t.latched f = s.latched f
  rotation : t.lanes.rotation = s.lanes.rotation
  eventKept : (∀ l ∈ done, ¬s.laneMalformed l) → t.lanes.lastEvent = s.lanes.lastEvent
  eventSet : ∀ before l after, done.Nodup → done = before ++ l :: after → s.laneMalformed l →
    (∀ m ∈ after, ¬s.laneMalformed m) → t.lanes.lastEvent = some l

/-- What is chosen when the lanes of `done` have been examined: the first candidate. -/
structure Chosen (s : State) (done : List LaneNo) (c : Option (LaneNo × DescIndex)) : Prop where
  absent : c = none ↔ ∀ l ∈ done, ∀ i, ¬s.laneOffers l i
  first : ∀ l i, c = some (l, i) →
    s.laneOffers l i ∧ ∃ before after, done = before ++ l :: after ∧ ∀ m ∈ before, ∀ j, ¬s.laneOffers m j

/-- A list that ends with `l`, cut at one of its members: the cut is at that `l`, or `l` stands behind it. -/
theorem eq_append_cons_of_concat {α : Type} {done before after : List α} {l m : α}
    (h : done ++ [l] = before ++ m :: after) :
    (after = [] ∧ m = l ∧ done = before) ∨ ∃ rest, after = rest ++ [l] ∧ done = before ++ m :: rest := by
  rcases List.eq_nil_or_concat after with rfl | ⟨rest, x, rfl⟩
  · obtain ⟨h1, h2⟩ := List.append_inj' h rfl
    exact .inl ⟨rfl, (List.singleton_inj.1 h2).symm, h1⟩
  · have h' : done ++ [l] = (before ++ m :: rest) ++ [x] := by simpa using h
    obtain ⟨h1, h2⟩ := List.append_inj' h' rfl
    exact .inr ⟨rest, by rw [List.singleton_inj.1 h2]; simp, h1⟩

/-- One lane more that is not malformed, or was found so before. -/
theorem Examined.skip {s t : State} {done : List LaneNo} (h : Examined s done t) (l : LaneNo)
    (hl : s.laneMalformed l → l ∈ done) : Examined s (done ++ [l]) t := by
  have hi : ∀ m, m ∈ done ++ [l] ∧ s.laneMalformed m ↔ m ∈ done ∧ s.laneMalformed m := by
    intro m
    constructor
    · rintro ⟨a, b⟩
      rcases List.mem_append.1 a with a | a
      · exact ⟨a, b⟩
      · rw [List.mem_singleton.1 a] at b ⊢
        exact ⟨hl b, b⟩
    · rintro ⟨a, b⟩
      exact ⟨List.mem_append_left _ a, b⟩
  refine ⟨h.store, fun m a b => h.bad m ((hi m).1 ⟨a, b⟩).1 b, fun m a => h.good m fun b => a ((hi m).2 b), ?_, h.other,
    h.rotation, fun a => h.eventKept fun m b => a m (List.mem_append_left _ b), fun before m after hn e hm ha => ?_⟩
  · rw [h.fault]
    simp only [hi]
  · rcases eq_append_cons_of_concat e with ⟨rfl, rfl, rfl⟩ | ⟨rest, rfl, rfl⟩
    · exact absurd rfl (List.nodup_append.1 hn |>.2.2 m (hl hm) m (by simp))
    · exact h.eventSet before m rest (List.nodup_append.1 hn).1 rfl hm fun x hx => ha x (List.mem_append_left _ hx)

/-- One malformed lane more. -/
theorem Examined.faulted {s t : State} {done : List LaneNo} (h : Examined s done t) (l : LaneNo) (hl : s.laneMalformed l) :
    Examined s (done ++ [l]) ((t.setLane l { s.laneAt l with state := .faulted }).laneEvent l .laneFault) := by
  have hlane : ∀ m, ((t.setLane l { s.laneAt l with state := .faulted }).laneEvent l .laneFault).laneAt m =
      if l = m then { s.laneAt l with state := .faulted } else t.laneAt m := fun m => by simp
  refine ⟨h.store, fun m a b => ?_, fun m a => ?_, ⟨fun _ => .inr ⟨l, by simp, hl⟩, fun _ => ?_⟩,
    fun f hf => (State.laneEvent_raises _ _ hf).trans (h.other f hf), h.rotation,
    fun a => absurd hl (a l (by simp)), fun before m after _ e _ ha => ?_⟩
  · rw [hlane]
    split
    · rename_i e
      rw [e]
    · rename_i e
      rcases List.mem_append.1 a with a | a
      · exact h.bad m a b
      · exact absurd (List.mem_singleton.1 a).symm e
  · have e : l ≠ m := by
      rintro rfl
      exact a ⟨by simp, hl⟩
    rw [hlane, if_neg e]
    exact h.good m fun ⟨b, c⟩ => a ⟨List.mem_append_left _ b, c⟩
  · exact (State.raise_latched _ _ _).trans (by simp)
  · rcases eq_append_cons_of_concat e with ⟨-, rfl, -⟩ | ⟨rest, rfl, -⟩
    · rfl
    · exact absurd hl (ha l (by simp))

/-- One lane more that leaves the choice: it offers nothing, or something is chosen. -/
theorem Chosen.skip {s : State} {done : List LaneNo} {c : Option (LaneNo × DescIndex)} (h : Chosen s done c) (l : LaneNo)
    (hl : ∀ i, s.laneOffers l i → c ≠ none) : Chosen s (done ++ [l]) c := by
  refine ⟨⟨fun a m b i hi => ?_, fun a => h.absent.2 fun m b => a m (List.mem_append_left _ b)⟩, fun m i a => ?_⟩
  · rcases List.mem_append.1 b with b | b
    · exact h.absent.1 a m b i hi
    · rw [List.mem_singleton.1 b] at hi
      exact hl i hi a
  · obtain ⟨x, y, z, e, w⟩ := h.first m i a
    exact ⟨x, y, z ++ [l], by simp [e], w⟩

/-- What examining one lane more does. -/
theorem examineLane_examined {s : State} {done : List LaneNo} {acc : State × Option (LaneNo × DescIndex)} (l : LaneNo)
    (h : Examined s done acc.1) (hc : Chosen s done acc.2) :
    Examined s (done ++ [l]) (examineLane acc l).1 ∧ Chosen s (done ++ [l]) (examineLane acc l).2 := by
  have hd := State.desc_of_store h.store
  by_cases hm : l ∈ done ∧ s.laneMalformed l
  · have hf : (acc.1.laneAt l).state ≠ .running := by
      rw [h.bad l hm.1 hm.2]
      simp
    have he : examineLane acc l = acc := by
      unfold examineLane
      dsimp only
      split
      · rename_i e _ _
        exact absurd e hf
      · rfl
    rw [he]
    exact ⟨h.skip l fun _ => hm.1, hc.skip l fun i hi => absurd hm.2 (State.laneOffers_not_malformed hi)⟩
  · have hl : acc.1.laneAt l = s.laneAt l := h.good l hm
    unfold examineLane
    dsimp only
    rw [hl]
    split
    · rename_i i st e1 e2 e3
      rw [hd, hd]
      split
      · rename_i hb
        have hbad : s.laneMalformed l := ⟨e1, i, st, e2, e3, hb⟩
        exact ⟨h.faulted l hbad, hc.skip l fun j hj => absurd hbad (State.laneOffers_not_malformed hj)⟩
      · rename_i hb
        have hnb : ¬s.laneMalformed l := by
          rintro ⟨-, j, st', k1, k2, k3⟩
          obtain rfl : i = j := Option.some.inj (e2.symm.trans k1)
          obtain rfl : st = st' := Option.some.inj (e3.symm.trans k2)
          exact hb k3
        split
        · rename_i hg
          have hoff : s.laneOffers l i := ⟨e1, e2, ⟨st, e3, by simpa using hb⟩, hg.1, hg.2.1⟩
          refine ⟨h.skip l fun a => absurd a hnb, ⟨by simp only [reduceCtorEq, false_iff]; exact fun a => a l (by simp) i hoff, ?_⟩⟩
          intro m j hmj
          simp only [Option.some.injEq, Prod.mk.injEq] at hmj
          obtain ⟨rfl, rfl⟩ := hmj
          exact ⟨hoff, done, [], rfl, hc.absent.1 hg.2.2⟩
        · rename_i hg
          refine ⟨h.skip l fun a => absurd a hnb, hc.skip l ?_⟩
          rintro j ⟨-, k1, -, k2, k3⟩ k4
          obtain rfl : i = j := Option.some.inj (e2.symm.trans k1)
          exact hg ⟨k2, k3, k4⟩
    · rename_i hne
      refine ⟨h.skip l ?_, hc.skip l ?_⟩
      · rintro ⟨a, i, st, b, c, -⟩
        exact absurd c (hne i st a b)
      · rintro i ⟨a, b, ⟨st, c, -⟩, -⟩
        exact absurd c (hne i st a b)

/-- The choice at a freeze (R151, R152): every malformed lane of the order is FAULTED, the first candidate is chosen, and
ANNOUNCE_DONE comes of a lane that reports FROZEN at its final airing. -/
theorem laneChoice_examined (s : State) :
    ∃ t, Examined s s.laneOrder t ∧ Chosen s s.laneOrder (laneChoice s).2
      ∧ (laneChoice s).1 =
        match (laneChoice s).2 with
        | none => t
        | some (l, i) =>
          if (s.laneAt l).report = .frozen ∧ finalAiring (s.laneAt l) (s.desc i) = true then t.laneEvent l .announceDone
          else t := by
  have hf : ∀ (ls done : List LaneNo) (acc : State × Option (LaneNo × DescIndex)), Examined s done acc.1 →
      Chosen s done acc.2 →
      Examined s (done ++ ls) (ls.foldl examineLane acc).1 ∧ Chosen s (done ++ ls) (ls.foldl examineLane acc).2 := by
    intro ls
    induction ls with
    | nil => intro done acc h1 h2; simpa using ⟨h1, h2⟩
    | cons l ls ih =>
      intro done acc h1 h2
      obtain ⟨k1, k2⟩ := examineLane_examined l h1 h2
      simpa using ih _ _ k1 k2
  obtain ⟨h1, h2⟩ := hf s.laneOrder [] (s, none)
    ⟨rfl, by simp, fun _ _ => rfl, by simp, fun _ _ => rfl, rfl, fun _ => rfl, by simp⟩ ⟨by simp, by simp⟩
  rw [List.nil_append] at h1 h2
  unfold laneChoice
  generalize s.laneOrder.foldl examineLane (s, none) = r at h1 h2 ⊢
  obtain ⟨t, o⟩ := r
  cases o with
  | none => exact ⟨t, h1, h2, rfl⟩
  | some p =>
    obtain ⟨l, i⟩ := p
    obtain ⟨ho, -⟩ := h2.first l i rfl
    have hl := h1.good l fun a => State.laneOffers_not_malformed ho a.2
    have hi := State.desc_of_store h1.store i
    simp only [hl, hi]
    refine ⟨t, h1, ?_, ?_⟩
    · split <;> exact h2
    · split
      · rename_i hrep
        exact (if_pos hrep).symm
      · rename_i hrep
        exact (if_neg hrep).symm

end Sys2Proof.Machine
end

