-- ==== Sys2Proof/Laws/Running.lean ====
section
/-! SUPPORT. Events that are taken only while the unit runs, and commands of the controller link: what `exec` of them is, and
how a condition on the state is shown to be kept by them. -/

namespace Sys2Proof.Machine

/-- While the unit runs the event acts. -/
theorem whenRunning_of_running (f : State → State) (s : State) (h : s.running = true) : whenRunning f s = f s := by
  simp [whenRunning, h]

/-- In reset, without supply and in the start interval the event does nothing (R165). -/
theorem whenRunning_of_not_running (f : State → State) (s : State) (h : s.running = false) : whenRunning f s = s := by
  simp [whenRunning, h]

/-- What both the state and the event's result have, the result of `whenRunning` has. -/
theorem whenRunning_keeps (P : State → Prop) (f : State → State) (s : State) (h : P s) (hf : P (f s)) :
    P (whenRunning f s) := by
  unfold whenRunning
  split <;> assumption

/-- Whether the unit runs depends on supply, RSTN and start interval alone. -/
theorem running_of_pwr (s t : State) (h : t.pwr = s.pwr) : t.running = s.running := by
  simp [State.running, h]

/-- A frame while the receiver discards characters. -/
theorem cliFrame_of_discarding (bytes : List Byte) (s : State)
    (h : (∃ k, s.link.rx = .draining k) ∨ ∃ f, s.link.rx = .responding f) : cliFrame bytes s = s := by
  have hc : ∀ c, cliCharacter c s = s := by
    intro c
    obtain ⟨k, h0⟩ | ⟨f, h0⟩ := h <;> simp [cliCharacter, h0]
  unfold cliFrame
  induction bytes with
  | nil => rfl
  | cons c rest ih => rw [List.foldl_cons, hc]; exact ih

/-- A command row while the receiver discards characters. -/
theorem command_of_discarding (r : Request) (s : State)
    (h : (∃ k, s.link.rx = .draining k) ∨ ∃ f, s.link.rx = .responding f) : command r s = s :=
  cliFrame_of_discarding _ s h

/-- A condition that does not read the receiver and that performing keeps is kept by a character on CLI. -/
theorem cliCharacter_keeps (P : State → Prop) (hrx : ∀ rx s, P s → P (s.setRx rx))
    (hp : ∀ r s, P s → P (perform r s).state) (c : Byte) (s : State) (h : P s) : P (cliCharacter c s) := by
  have hc : ∀ bytes s, P s → P (checkFrame bytes s) := by
    intro bytes s h
    have ht : ∀ r, P (take r s) := fun r => hrx _ _ (hp r s h)
    have hf : ∀ code, P (respond code .format [] s) := fun _ => hrx _ _ h
    unfold checkFrame
    split
    · dsimp only
      split
      · split
        · exact ht _
        · exact hf _
      · exact hf _
    · exact h
  have hl : ∀ bytes, P (collect bytes s) := by
    intro bytes
    unfold collect
    repeat' split
    all_goals first
      | exact hrx _ _ h
      | exact hc _ _ h
  unfold cliCharacter
  split
  · exact hl _
  · exact hl _
  · exact h
  · exact h

/-- A condition that does not read the receiver and that performing keeps is kept by a whole frame. -/
theorem cliFrame_keeps (P : State → Prop) (hrx : ∀ rx s, P s → P (s.setRx rx))
    (hp : ∀ r s, P s → P (perform r s).state) (bytes : List Byte) (s : State) (h : P s) : P (cliFrame bytes s) := by
  unfold cliFrame
  induction bytes generalizing s with
  | nil => exact h
  | cons c rest ih => exact ih _ (cliCharacter_keeps P hrx hp c s h)

/-- A condition that does not read the receiver and that performing keeps is kept by a command row. -/
theorem command_keeps (P : State → Prop) (hrx : ∀ rx s, P s → P (s.setRx rx))
    (hp : ∀ r s, P s → P (perform r s).state) (r : Request) (s : State) (h : P s) : P (whenRunning (command r) s) :=
  whenRunning_keeps _ _ _ h (cliFrame_keeps P hrx hp _ s h)

/-- What `exec` keeps, a step keeps, for a condition that does not read the queue. -/
theorem step_keeps (P : State → Prop) (hq : ∀ (q : List Instr) (s : State), P s → P { s with pending := q })
    (he : ∀ c s t, P s → exec c s = .next t → P t) (s t : State) (h : P s) (hs : step s = .next t) : P t := by
  unfold step at hs
  split at hs
  · injection hs with hs
    exact hs ▸ h
  · exact he _ _ _ (hq _ _ h) hs

end Sys2Proof.Machine
end

