-- ==== Sys2Proof/Laws/Link.lean ====
section
/-! SUPPORT. What the operations of the lanes, the link and the window's cells answer, case by case: an arrival (R150), a
request and its code, a collision (R113), the cell in progress. -/

namespace Sys2Proof.Machine

/-- Driving the bus puts the lines there, and the decoder has the bus from that instant on when they change (R127). -/
theorem State.driveBus_eq (t : Instant) (l : KeyingLines) (s : State) :
    s.driveBus t l =
      { s with
        keying := { s.keying with own := l }
        dec :=
          { s.dec with
            busTrace :=
              s.dec.busTrace
                ++ (if l = s.keying.own then []
                  else
                    [⟨t, l.kyl || s.keying.peer.kyl, l.kya || s.keying.peer.kya, l.kyr || s.keying.peer.kyr⟩]) } } := by
  unfold State.driveBus
  by_cases h : s.keying.own = l
  · subst h
    simp
  · rw [if_neg h, if_neg (Ne.symm h)]
    rfl

/-- Driving the loop puts the lines there, and the decoder has the loop from that instant on when they change (R127). -/
theorem State.driveLoop_eq (t : Instant) (l : KeyingLines) (s : State) :
    s.driveLoop t l =
      { s with
        keying := { s.keying with loop := l }
        dec :=
          { s.dec with loopTrace := s.dec.loopTrace ++ (if l = s.keying.loop then [] else [⟨t, l⟩]) } } := by
  unfold State.driveLoop
  by_cases h : s.keying.loop = l
  · subst h
    simp
  · rw [if_neg h, if_neg (Ne.symm h)]
    rfl

/-! ### Arrival (R150) -/

/-- A lane that arrives, not by credit, at a GENERATOR-owned descriptor that is free or its own. -/
theorem arrive_of_free (l : LaneNo) (i : DescIndex) (s : State) (hc : (s.laneAt l).cursor = some i)
    (ho : (s.desc i).owner = .generator) (hf : (s.desc i).claim = none ∨ (s.desc i).claim = some l) :
    arrive l false s =
      (s.setDesc i { s.desc i with claim := some l }).setLane l
        { s.laneAt l with
          state := if 0 < (s.laneAt l).countdown then .waiting else .running
          repeats :=
            if (s.laneAt l).start = some i ∧ (s.laneAt l).repeats = none then some (s.desc i).repeats
            else (s.laneAt l).repeats } := by
  unfold arrive
  simp only [hc, ho, hf, if_true]
  simp

/-- A lane that arrives, not by credit, at a CONTROLLER-owned descriptor starves. -/
theorem arrive_of_controller (l : LaneNo) (i : DescIndex) (s : State) (hc : (s.laneAt l).cursor = some i)
    (ho : (s.desc i).owner = .controller) :
    arrive l false s = (s.setLane l { s.laneAt l with state := .starved }).laneEvent l .laneStarved := by
  unfold arrive
  simp only [hc, ho]
  simp

/-- A lane that arrives, not by credit, at a descriptor that another lane claims is faulted. -/
theorem arrive_of_claimed (l m : LaneNo) (i : DescIndex) (s : State) (hc : (s.laneAt l).cursor = some i)
    (ho : (s.desc i).owner = .generator) (hm : (s.desc i).claim = some m) (hn : m ≠ l) :
    arrive l false s = (s.setLane l { s.laneAt l with state := .faulted }).laneEvent l .laneFault := by
  have hf : ¬((s.desc i).claim = none ∨ (s.desc i).claim = some l) := by rw [hm]; simp [hn]
  unfold arrive
  simp only [hc, ho, hf, if_false]
  simp

/-! ### Indices and lane numbers of a frame (R176) -/

/-- An index above 127 names no descriptor. -/
theorem descIndexOf_of_large (b : Byte) (h : 127 < b.toNat) : descIndexOf b = none := by
  unfold descIndexOf
  rw [dif_neg (by omega)]

/-- An index up to 127 names its descriptor. -/
theorem descIndexOf_of_eq (b : Byte) (i : DescIndex) (h : b.toNat = i.val) : descIndexOf b = some i := by
  have := i.isLt
  unfold descIndexOf
  rw [dif_pos (by omega)]
  congr 1
  exact Fin.ext h

/-- A number above 3 names no lane. -/
theorem laneNoOf_of_large (b : Byte) (h : 3 < b.toNat) : laneNoOf b = none := by
  unfold laneNoOf
  rw [dif_neg (by omega)]

/-- A number up to 3 names its lane. -/
theorem laneNoOf_of_eq (b : Byte) (l : LaneNo) (h : b.toNat = l.val) : laneNoOf b = some l := by
  have := l.isLt
  unfold laneNoOf
  rw [dif_pos (by omega)]
  congr 1
  exact Fin.ext h

/-! ### Collision (R113) and the window's cells -/

/-- What a collision makes of a state. -/
theorem State.collide_collidesTo (t : Instant) (s : State) : s.collidesTo (s.collide t) := by
  unfold State.collide State.collidesTo State.releaseKeying State.driveLoop State.driveBus
  by_cases h1 : s.keying.own = linesReleased <;> by_cases h2 : s.keying.loop = linesReleased <;>
    simp only [h1, h2, if_true, if_false, State.recordBus, State.recordLoop] <;>
    exact ⟨_, _, rfl⟩

/-- A window that is not over and has its alignment is live. -/
theorem Window.live_of {w : Window} (hp : w.phase ≠ .over) (ha : w.alignment ≠ none) : w.live = true := by
  have hs : w.alignment.isSome = true := Option.isSome_iff_ne_none.mpr ha
  simp [Window.live, hp, hs]

/-- A live window whose cell in progress is `n`, not yet read, awaits the reading of a cell of a range that holds `n`. -/
theorem Window.awaits_of {w : Window} (n first last : Nat) (hp : w.phase ≠ .over) (ha : w.alignment ≠ none)
    (hs : w.sampled = false) (hc : w.cell = n) (h1 : first ≤ n) (h2 : n ≤ last) : w.awaits first last = true := by
  simp [Window.awaits, Window.live_of hp ha, hs, hc, h1, h2]

/-! ### Requests -/

/-- A request that is formed carries the code it is formed from (Table 11.4). -/
theorem requestCode_of_requestOf (code : Byte) (body : List Byte) (r : Request) (h : requestOf code body = some r) :
    requestCode r = code := by
  unfold requestOf requestOf0 requestOf1 requestOf3 requestOf4 at h
  repeat' split at h
  all_goals first
    | (injection h with h; subst h; simp_all [requestCode])
    | cases h

/-- The receiver is no part of a lane. -/
theorem State.laneAt_setRx (rx : Receiver) (l : LaneNo) (s : State) : (s.setRx rx).laneAt l = s.laneAt l := rfl

/-- The receiver is no part of a descriptor. -/
theorem State.desc_setRx (rx : Receiver) (i : DescIndex) (s : State) : (s.setRx rx).desc i = s.desc i := rfl

/-- Replacing a lane and taking a receiver state commute. -/
theorem State.setLane_setRx (rx : Receiver) (l : LaneNo) (x : Lane) (s : State) :
    (s.setRx rx).setLane l x = (s.setLane l x).setRx rx := rfl

/-- Replacing a descriptor and taking a receiver state commute. -/
theorem State.setDesc_setRx (rx : Receiver) (i : DescIndex) (d : Descriptor) (s : State) :
    (s.setRx rx).setDesc i d = (s.setDesc i d).setRx rx := rfl

/-- A lane event and taking a receiver state commute. -/
theorem State.laneEvent_setRx (rx : Receiver) (l : LaneNo) (e : Event) (s : State) :
    (s.setRx rx).laneEvent l e = (s.laneEvent l e).setRx rx := rfl

/-- An arrival does not read the receiver. -/
theorem arrive_setRx (rx : Receiver) (l : LaneNo) (b : Bool) (s : State) :
    arrive l b (s.setRx rx) = (arrive l b s).setRx rx := by
  unfold arrive
  simp only [State.laneAt_setRx, State.desc_setRx, State.setLane_setRx, State.setDesc_setRx, State.laneEvent_setRx]
  cases (s.laneAt l).cursor with
  | none => rfl
  | some i =>
    dsimp only
    cases (s.desc i).owner <;> dsimp only
    · split <;> rename_i h <;> simp [h]
    · by_cases h : (s.desc i).claim = none ∨ (s.desc i).claim = some l
      · simp [h]; rfl
      · simp only [h, if_false]
        by_cases h3 : (b && (s.laneAt l).state == .stopped) = true
        · simp [h3]
        · simp [h3]

/-- The end of a starvation does not read the receiver. -/
theorem endStarvation_setRx (rx : Receiver) (i : DescIndex) (s : State) (l : LaneNo) :
    endStarvation i (s.setRx rx) l = (endStarvation i s l).setRx rx := by
  unfold endStarvation
  simp only [State.laneAt_setRx, arrive_setRx, apply_ite (State.setRx rx)]

/-- Performing a request does not read the receiver (R175). -/
theorem perform_setRx (rx : Receiver) (r : Request) (s : State) :
    perform r (s.setRx rx) = { perform r s with state := (perform r s).state.setRx rx } := by
  have pair : ∀ (f : State → Status × State), f (s.setRx rx) = ((f s).1, (f s).2.setRx rx) →
      answer (f (s.setRx rx)) = { answer (f s) with state := (answer (f s)).state.setRx rx } := by
    intro f h; rw [h]; rfl
  cases r with
  | statusRead => rfl
  | eventsRead => rfl
  | eventsClear m => apply pair; unfold eventsClear; split <;> rfl
  | eventsEnable m => apply pair; unfold eventsEnable; split <;> rfl
  | peersRead => rfl
  | concordRead => rfl
  | airlogRead => rfl
  | descWrite b =>
    apply pair; unfold descWrite; split
    · rfl
    · rename_i i h
      simp only [State.desc_setRx, State.setDesc_setRx]
      cases (s.desc i).owner
      · dsimp only; cases descWritten b (s.desc i) <;> rfl
      · rfl
  | descHand b =>
    have e : ∀ (i) (ls : List LaneNo) (x : State), ls.foldl (endStarvation i) (x.setRx rx) = (ls.foldl (endStarvation i) x).setRx rx := by
      intro i ls; induction ls with
      | nil => intro x; rfl
      | cons l ls ih => intro x; rw [List.foldl_cons, endStarvation_setRx, ih]; rfl
    apply pair; unfold descHand; split
    · rfl
    · rename_i i h
      simp only [State.desc_setRx, State.setDesc_setRx, e]
      split
      · rfl
      · cases (s.desc i).owner <;> dsimp only
  | descRecall b =>
    apply pair; unfold descRecall; split
    · rfl
    · rename_i i h
      simp only [State.desc_setRx, State.setDesc_setRx, State.laneAt_setRx]
      cases (s.desc i).owner
      · rfl
      · dsimp only
        cases (s.desc i).claim
        · rfl
        · dsimp only; split <;> rename_i h2 <;> simp [h2]
  | descRead b => show descRead b (s.setRx rx) = _; unfold perform descRead; dsimp only; split <;> rfl
  | laneStart l h g p =>
    apply pair; unfold laneStart; split
    · rename_i l i p _ _ _
      simp only [State.laneAt_setRx]
      split <;> rename_i h2 <;> simp [h2]
      exact arrive_setRx rx l false (State.setLane l _ { s with store := releaseClaims l s.store })
    · rfl
  | laneStop l => apply pair; unfold laneStop; split <;> rfl
  | laneResume l =>
    apply pair; unfold laneResume; split
    · rfl
    · rename_i l _
      simp only [State.laneAt_setRx, arrive_setRx]
      split <;> rfl
  | laneClear l =>
    apply pair; unfold laneClear; split
    · rfl
    · rename_i l _
      simp only [State.laneAt_setRx]
      split <;> rename_i h2 <;> simp [h2]
      rfl
  | zoneAdd t z => apply pair; rfl
  | zoneRemove t => apply pair; rfl
  | zoneRead => rfl
  | requestSet x y =>
    apply pair; unfold requestSet; split
    · refine Prod.ext rfl ?_
      unfold redriveFlags
      dsimp only
      show (if s.win.live = true ∧ (s.win.cell = 18 ∨ s.win.cell = 19) ∧ (!s.win.sampled) = true then _ else _) =
         State.setRx rx (if s.win.live = true ∧ (s.win.cell = 18 ∨ s.win.cell = 19) ∧ (!s.win.sampled) = true then _ else _)
      split <;> rfl
    · rfl
  | keyYield =>
    apply pair; unfold keyYield
    show (if s.key.state = .holding then _ else _) = ((if s.key.state = .holding then _ else _ : Status × State).1, State.setRx rx (if s.key.state = .holding then _ else _ : Status × State).2)
    split <;> rfl
  | readmit =>
    apply pair; unfold readmit
    show (if s.key.state = .fenced then _ else _) = ((if s.key.state = .fenced then _ else _ : Status × State).1, State.setRx rx (if s.key.state = .fenced then _ else _ : Status × State).2)
    split <;> rfl
  | restart => rfl

/-! ### Frames (R173 to R175) -/

/-- The body's characters, up to the length that the second byte gives, are collected. -/
theorem collect_body (code len : Byte) (hl : len.toNat ≤ 64) (body pre : List Byte) (s : State)
    (hb : pre.length + body.length = len.toNat) (hs : s.link.rx = .collecting (code :: len :: pre)) :
    body.foldl (fun s c => cliCharacter c s) s = s.setRx (.collecting (code :: len :: (pre ++ body))) := by
  induction body generalizing pre s with
  | nil =>
    have hlk : (⟨.collecting (code :: len :: pre), s.link.restartPending⟩ : Link) = s.link := by rw [← hs]
    simp [State.setRx, hlk]
  | cons b body ih =>
    simp only [List.length_cons] at hb
    have hc : cliCharacter b s = s.setRx (.collecting (code :: len :: (pre ++ [b]))) := by
      simp only [cliCharacter, hs, collect, List.cons_append, List.length_append, List.length_cons, List.length_nil]
      rw [if_neg (by omega), if_neg (by omega)]
    rw [List.foldl_cons, hc, ih (pre ++ [b]) _ (by simp; omega) rfl]
    simp [State.setRx]

/-- A whole frame that arrives in EMPTY is handed on for checking (R173). -/
theorem cliFrame_of_empty (code len check : Byte) (body : List Byte) (s : State) (he : s.link.rx = .empty)
    (hl : len.toNat ≤ 64) (hb : body.length = len.toNat) :
    cliFrame (code :: len :: (body ++ [check])) s =
      checkFrame (code :: len :: (body ++ [check])) (s.setRx (.collecting (code :: len :: body))) := by
  have e1 : cliCharacter code s = s.setRx (.collecting [code]) := by simp [cliCharacter, he, collect]
  have e2 : cliCharacter len (s.setRx (.collecting [code])) = s.setRx (.collecting [code, len]) := by
    simp only [cliCharacter, State.setRx, collect, List.cons_append, List.nil_append, List.length_nil]
    rw [if_neg (by omega), if_neg (by omega)]
  unfold cliFrame
  rw [List.foldl_cons, List.foldl_cons, List.foldl_append, e1, e2,
    collect_body code len hl body [] _ (by simpa using hb) rfl]
  simp only [List.foldl_cons, List.foldl_nil, cliCharacter, State.setRx, collect, List.cons_append, List.nil_append,
    List.length_append, List.length_cons, List.length_nil]
  rw [if_neg (by omega), if_pos (by omega)]

/-- A frame whose check byte is right and whose code and body make a request is taken (R174). -/
theorem checkFrame_of_good (code len : Byte) (body : List Byte) (r : Request) (rx : Receiver) (s : State)
    (hr : requestOf code body = some r) :
    checkFrame (code :: len :: (body ++ [crc8 (code :: len :: body)])) (s.setRx rx) = take r s := by
  unfold checkFrame
  simp only [List.dropLast_concat, List.getLast?_concat, if_true, hr]
  unfold take
  rw [perform_setRx]
  rfl

/-- Three bytes of a 24-bit value give it back. -/
theorem word24Of_bytes24 (m : Word24) :
    word24Of (byteOf (m.toNat / 65536)) (byteOf (m.toNat / 256)) (byteOf m.toNat) = m := by
  apply BitVec.eq_of_toNat_eq
  have := m.isLt
  unfold word24Of
  rw [BitVec.toNat_append, BitVec.toNat_append]
  simp only [byteOf, BitVec.toNat_ofNat]
  rw [← Nat.shiftLeft_add_eq_or_of_lt (by omega), ← Nat.shiftLeft_add_eq_or_of_lt (by omega)]
  simp only [Nat.shiftLeft_eq]
  omega

/-- Four bytes of a 32-bit value give it back. -/
theorem word32Of_bytes4 (w : Word32) :
    word32Of (byteOf (w.toNat / 16777216)) (byteOf (w.toNat / 65536)) (byteOf (w.toNat / 256)) (byteOf w.toNat) = w := by
  apply BitVec.eq_of_toNat_eq
  have := w.isLt
  unfold word32Of
  rw [BitVec.toNat_append, BitVec.toNat_append, BitVec.toNat_append]
  simp only [byteOf, BitVec.toNat_ofNat]
  rw [← Nat.shiftLeft_add_eq_or_of_lt (by omega), ← Nat.shiftLeft_add_eq_or_of_lt (by omega),
    ← Nat.shiftLeft_add_eq_or_of_lt (by omega)]
  simp only [Nat.shiftLeft_eq]
  omega

/-- The bytes of DESC WRITE give its body back (Table 11.5). -/
theorem descBodyOf_bytes (b : DescBody) : descBodyOf (descWriteBytes b) = b := by
  have hp : (Vector.ofFn fun i : Fin 48 => (descWriteBytes b).getD (12 + i.val) 0) = b.payload := by
    apply Vector.ext
    intro i hi
    rw [Vector.getElem_ofFn]
    unfold descWriteBytes
    rw [List.getD_eq_getElem?_getD, List.getElem?_append_right (by simp)]
    simp [hi]
  unfold descBodyOf
  dsimp only
  rw [hp]
  rfl

/-- The code and the body of a request make it (Table 11.4). -/
theorem requestOf_requestBody (r : Request) : requestOf (requestCode r) (requestBody r) = some r := by
  cases r with
  | eventsClear m => exact congrArg (fun x => some (Request.eventsClear x)) (word24Of_bytes24 m)
  | eventsEnable m => exact congrArg (fun x => some (Request.eventsEnable x)) (word24Of_bytes24 m)
  | zoneAdd t z => exact congrArg (fun x => some (Request.zoneAdd x z)) (word32Of_bytes4 t)
  | zoneRemove t => exact congrArg (fun x => some (Request.zoneRemove x)) (word32Of_bytes4 t)
  | descWrite b =>
    have hl : (descWriteBytes b).length = 60 := by simp [descWriteBytes]
    show (if (0x10#8 : Byte) = 0x10 ∧ (descWriteBytes b).length = 60 then some (Request.descWrite (descBodyOf (descWriteBytes b))) else none) = _
    rw [if_pos ⟨rfl, hl⟩, descBodyOf_bytes]
  | _ => rfl

/-- A request's body has at most 60 bytes (Table 11.4). -/
theorem requestBody_length (r : Request) : (requestBody r).length ≤ 60 := by
  cases r <;> simp [requestBody, bytes24, bytes4, descWriteBytes]

/-- In EMPTY a command row's frame is taken (R175). -/
theorem command_of_empty (r : Request) (s : State) (he : s.link.rx = .empty) : command r s = take r s := by
  have hb := requestBody_length r
  have hn : (byteOf (requestBody r).length).toNat = (requestBody r).length := by
    simp only [byteOf, BitVec.toNat_ofNat]
    omega
  unfold command requestFrame
  exact (cliFrame_of_empty _ _ _ _ s he (by omega) hn.symm).trans
    (checkFrame_of_good _ _ _ r _ s (requestOf_requestBody r))

/-- A command row while the receiver is EMPTY. -/
theorem command_of_hears (r : Request) (s : State) (h : s.hears) : whenRunning (command r) s = take r s := by
  rw [whenRunning_of_running _ _ h.1, command_of_empty r s h.2]

/-- No command touches the queue, the supply, the straps or the note of a hand-over. -/
theorem perform_outside (r : Request) (s : State) :
    (perform r s).state.pending = s.pending ∧ (perform r s).state.pwr = s.pwr
      ∧ (perform r s).state.straps = s.straps ∧ (perform r s).state.handedOver = s.handedOver := by
  cases r <;> simp only [perform, readAnswer, answer]
  case descWrite => rw [descWrite_frame]; exact ⟨rfl, rfl, rfl, rfl⟩
  case descHand => rw [descHand_frame]; exact ⟨rfl, rfl, rfl, rfl⟩
  case descRecall => rw [descRecall_frame]; exact ⟨rfl, rfl, rfl, rfl⟩
  case laneStart => rw [laneStart_frame]; exact ⟨rfl, rfl, rfl, rfl⟩
  case laneStop => rw [laneStop_frame]; exact ⟨rfl, rfl, rfl, rfl⟩
  case laneResume => rw [laneResume_frame]; exact ⟨rfl, rfl, rfl, rfl⟩
  case laneClear => rw [laneClear_frame]; exact ⟨rfl, rfl, rfl, rfl⟩
  case descRead => unfold descRead; split <;> exact ⟨rfl, rfl, rfl, rfl⟩
  case eventsClear => unfold eventsClear; split <;> exact ⟨rfl, rfl, rfl, rfl⟩
  case eventsEnable => unfold eventsEnable; split <;> exact ⟨rfl, rfl, rfl, rfl⟩
  case requestSet =>
    unfold requestSet
    split
    · dsimp only
      rw [redriveFlags_frame]
      exact ⟨rfl, rfl, rfl, rfl⟩
    · exact ⟨rfl, rfl, rfl, rfl⟩
  case keyYield => rw [keyYield_frame]; exact ⟨rfl, rfl, rfl, rfl⟩
  case readmit => rw [readmit_frame]; exact ⟨rfl, rfl, rfl, rfl⟩
  all_goals first | exact ⟨rfl, rfl, rfl, rfl⟩ | exact ⟨trivial, trivial, trivial, trivial⟩

/-- A running unit runs on after a character on CLI. -/
theorem cliCharacter_running (c : Byte) (s : State) (h : s.running = true) : (cliCharacter c s).running = true :=
  cliCharacter_keeps (fun t => t.running = true) (fun _ _ h => h)
    (fun r t h => (running_of_pwr t _ (perform_outside r t).2.1).trans h) c s h

end Sys2Proof.Machine
end

