-- ==== Sys2Proof/Laws/Store.lean ====
section
/-! SUPPORT. Which operations keep a CONTROLLER-owned descriptor unclaimed (R143): every one that writes the store, and the
operations that call them. -/

namespace Sys2Proof.Machine

theorem setDesc_storeOk (i d) (s : State) (h : s.storeOk) (hd : d.owner = .controller → d.claim = none) : (s.setDesc i d).storeOk := by
  intro j; rw [State.setDesc_desc]; split
  · exact hd
  · exact h j

theorem storeOk_map (f : Descriptor → Descriptor) (s : State) (h : s.storeOk)
   (hf : ∀ d : Descriptor, (d.owner = .controller → d.claim = none) → ((f d).owner = .controller → (f d).claim = none)) :
   State.storeOk { s with store := s.store.map f } := by
  intro i
  have : ({ s with store := s.store.map f } : State).desc i = f (s.desc i) := by simp [State.desc]
  rw [this]; exact hf _ (h i)

theorem arrive_storeOk (l b) (s : State) (h : s.storeOk) : (arrive l b s).storeOk := by
  unfold arrive; dsimp only
  split
  · exact h
  · split
    · split <;> exact h
    · rename_i i _ _ _
      split
      · exact setDesc_storeOk _ _ s h (by intro hh; simp_all)
      · split <;> exact h

theorem releaseClaims_storeOk (l) (s : State) (h : s.storeOk) : State.storeOk { s with store := releaseClaims l s.store } :=
  storeOk_map _ s h (by intro d hd hc; split at hc <;> split <;> simp_all)

theorem writeBack_storeOk (l k) (s : State) (h : s.storeOk) : (writeBack l k s).storeOk := by
  unfold writeBack; dsimp only
  have h1 := storeOk_map (fun d => if d.claim = some l then { d with owner := .controller, claim := none } else d) s h
    (by intro d hd hc; split at hc <;> split <;> simp_all)
  split <;> exact arrive_storeOk _ _ _ h1

theorem creditEnd_storeOk (l k) (s : State) (h : s.storeOk) : (creditEnd l k s).storeOk := by
  unfold creditEnd; dsimp only; split
  · exact h
  · exact writeBack_storeOk _ _ _ h

theorem credit_storeOk (l i) (s : State) (h : s.storeOk) : (credit l i s).storeOk := by
  unfold credit; dsimp only
  have h1 : (s.setDesc i { s.desc i with aired := min 65535 ((s.desc i).aired + 1) }).storeOk :=
    setDesc_storeOk _ _ s h (h i)
  split
  · exact creditEnd_storeOk _ _ _ h1
  · exact arrive_storeOk _ _ _ h1

theorem takeCredit_storeOk (r d) (s : State) (h : s.storeOk) : (takeCredit r d s).storeOk := by
  unfold takeCredit; repeat' split
  all_goals first | exact h | exact credit_storeOk _ _ _ h

theorem minuteBoundary_storeOk (m) (s : State) (h : s.storeOk) : (minuteBoundary m s).storeOk := by
  unfold minuteBoundary; dsimp only
  rw [proofBegin_frame, handOver_frame, listenBoundary_frame, zoneDue_frame, proofJudge_frame]
  apply takeCredit_storeOk
  rw [countdowns_frame, closeAirMinute_frame]
  exact h

theorem ownEdge_storeOk (s : State) (h : s.storeOk) : (ownEdge s).storeOk := by
  unfold ownEdge; dsimp only
  have h1 : ∀ r, State.storeOk (trackerEdge ((secondEnds r s.trk.nextEdge (endWindow s)).releaseKeying s.trk.nextEdge)) := by
    intro r; rw [trackerEdge_frame, State.releaseKeying_frame, secondEnds_frame, endWindow_frame]; exact h
  rw [proofReferenceCheck_frame]
  have h2 : ∀ t : State, t.storeOk → ∀ b, (keyEdge b (if s.trk.boundaryNext then minuteBoundary t.trk.minute t else t)).storeOk := by
    intro t ht b; rw [keyEdge_frame]; split
    · exact minuteBoundary_storeOk _ _ ht
    · exact ht
  split
  · rw [freezeEdge_frame]; exact h2 _ (h1 _) _
  · exact h2 _ (h1 _) _

theorem descHand_storeOk (b) (s : State) (h : s.storeOk) : (descHand b s).2.storeOk := by
  unfold descHand; split
  · exact h
  · rename_i i _
    dsimp only; split
    · exact h
    · split
      · exact h
      · dsimp only
        have : ∀ (ls : List LaneNo) (t : State), t.storeOk → (ls.foldl (endStarvation i) t).storeOk := by
          intro ls; induction ls with
          | nil => exact fun _ h => h
          | cons l ls ih =>
            intro t ht; rw [List.foldl_cons]; apply ih
            unfold endStarvation; split
            · exact arrive_storeOk _ _ _ ht
            · exact ht
        exact this _ _ (setDesc_storeOk _ _ s h (by intro hh; cases hh))

theorem laneStart_storeOk (a b c d) (s : State) (h : s.storeOk) : (laneStart a b c d s).2.storeOk := by
  unfold laneStart; split
  · dsimp only; split
    · exact arrive_storeOk _ _ _ (releaseClaims_storeOk _ s h)
    · exact h
  · exact h

theorem laneResume_storeOk (a) (s : State) (h : s.storeOk) : (laneResume a s).2.storeOk := by
  unfold laneResume; split
  · exact h
  · split
    · exact arrive_storeOk _ _ _ h
    · exact h

theorem laneClear_storeOk (a) (s : State) (h : s.storeOk) : (laneClear a s).2.storeOk := by
  unfold laneClear; split
  · exact h
  · dsimp only; split
    · exact h
    · exact releaseClaims_storeOk _ s h

theorem laneStop_storeOk (a) (s : State) (h : s.storeOk) : (laneStop a s).2.storeOk := by
  rw [laneStop_frame]; exact h

theorem descWrite_storeOk (a) (s : State) (h : s.storeOk) : (descWrite a s).2.storeOk := by
  unfold descWrite; split
  · exact h
  · split
    · exact h
    · split
      · exact h
      · rename_i i _ _ d hd
        refine setDesc_storeOk _ _ s h ?_
        unfold descWritten at hd
        split at hd
        · split at hd
          · simp only [Option.some.injEq] at hd; subst hd; exact h _
          · cases hd
        · cases hd

theorem descRecall_storeOk (a) (s : State) (h : s.storeOk) : (descRecall a s).2.storeOk := by
  unfold descRecall; split
  · exact h
  · dsimp only; repeat' split
    all_goals first | exact h | exact setDesc_storeOk _ _ s h (by simp)

theorem perform_storeOk (r) (s : State) (h : s.storeOk) : (perform r s).state.storeOk := by
  cases r <;> simp only [perform, readAnswer, answer]
  case descWrite => exact descWrite_storeOk _ s h
  case descHand => exact descHand_storeOk _ s h
  case descRecall => exact descRecall_storeOk _ s h
  case laneStart => exact laneStart_storeOk _ _ _ _ s h
  case laneStop => exact laneStop_storeOk _ s h
  case laneResume => exact laneResume_storeOk _ s h
  case laneClear => exact laneClear_storeOk _ s h
  case descRead => unfold descRead; split <;> exact h
  case eventsClear => unfold eventsClear; split <;> exact h
  case eventsEnable => unfold eventsEnable; split <;> exact h
  case requestSet => unfold requestSet; split
                     · dsimp only; rw [redriveFlags_frame]; exact h
                     · exact h
  case keyYield => rw [keyYield_frame]; exact h
  case readmit => rw [readmit_frame]; exact h
  all_goals exact h

theorem take_storeOk (r) (s : State) (h : s.storeOk) : (take r s).storeOk := perform_storeOk r s h

theorem checkFrame_storeOk (b) (s : State) (h : s.storeOk) : (checkFrame b s).storeOk := by
  unfold checkFrame; dsimp only; repeat' split
  all_goals first | exact h | exact take_storeOk _ s h

theorem cliCharacter_storeOk (b) (s : State) (h : s.storeOk) : (cliCharacter b s).storeOk := by
  unfold cliCharacter collect; repeat' split
  all_goals first | exact h | exact checkFrame_storeOk _ s h

theorem cliFrame_storeOk (b) (s : State) (h : s.storeOk) : (cliFrame b s).storeOk := by
  unfold cliFrame; induction b generalizing s with
  | nil => exact h
  | cons c b ih => exact ih _ (cliCharacter_storeOk c s h)

theorem command_storeOk (r) (s : State) (h : s.storeOk) : (command r s).storeOk := cliFrame_storeOk _ s h

theorem restart_storeOk (t) (s : State) (h : s.storeOk) : (restart t s).storeOk := by
  unfold restart; dsimp only; rw [State.releaseKeying_frame]; exact h

theorem realign_storeOk (s : State) (h : s.storeOk) : (realign s).storeOk := by
  unfold realign; split
  · split
    · exact h
    · dsimp only; unfold realignDraft; dsimp only; split
      · rw [settleZone_frame]; exact h
      · split
        · split
          · rw [State.putLines_frame, settleZone_frame]; exact h
          · rw [settleZone_frame]; exact h
        · rw [State.releaseKeying_frame, settleZone_frame]; exact h
  · exact h

end Sys2Proof.Machine
end

