-- ==== Sys2Proof/Laws/Zone.lean ====
section
/-! SUPPORT. What settling the zone table against a minute does (R46). -/

namespace Sys2Proof.Machine

/-- The last entry of a table in order of instant is its latest. -/
theorem getLast?_eq_some_iff_latest (l : List ZoneEntry) (h : l.Pairwise fun a b => a.start < b.start) (e : ZoneEntry) :
    l.getLast? = some e ↔ e ∈ l ∧ ∀ x ∈ l, x.start ≤ e.start := by
  induction l with
  | nil => simp
  | cons a l ih =>
    obtain ⟨h1, h2⟩ := List.pairwise_cons.1 h
    cases l with
    | nil =>
      constructor
      · intro k
        cases k
        simp
      · rintro ⟨k, -⟩
        simp only [List.mem_singleton] at k
        subst k
        rfl
    | cons b l =>
      rw [List.getLast?_cons_cons, ih h2]
      constructor
      · rintro ⟨k1, k2⟩
        refine ⟨List.mem_cons_of_mem _ k1, fun x hx => ?_⟩
        rcases List.mem_cons.1 hx with rfl | hx
        · exact Nat.le_of_lt (h1 e k1)
        · exact k2 x hx
      · rintro ⟨k1, k2⟩
        rcases List.mem_cons.1 k1 with rfl | k1
        · have := h1 b (by simp)
          have := k2 b (by simp)
          omega
        · exact ⟨k1, fun x hx => k2 x (List.mem_cons_of_mem _ hx)⟩

/-- The entry that a settling makes past: the latest at or before the minute. -/
theorem settled_past_iff (c : Nat) (table : List ZoneEntry) (h : table.Pairwise fun a b => a.start < b.start)
    (e : ZoneEntry) :
    (table.filter fun x => decide (x.start ≤ c)).getLast? = some e ↔
      e ∈ table ∧ e.start ≤ c ∧ ∀ x ∈ table, x.start ≤ c → x.start ≤ e.start := by
  rw [getLast?_eq_some_iff_latest _ (h.filter _)]
  simp only [List.mem_filter, decide_eq_true_eq]
  constructor
  · rintro ⟨⟨k1, k2⟩, k3⟩
    exact ⟨k1, k2, fun x hx hc => k3 x ⟨hx, hc⟩⟩
  · rintro ⟨k1, k2, k3⟩
    exact ⟨⟨k1, k2⟩, fun x hx => k3 x hx.1 hx.2⟩

/-- Settling a table in order of instant leaves the latest entry at or before the minute and every later one, in order. -/
theorem settledTable_spec (c : Nat) (table : List ZoneEntry) (h : table.Pairwise fun a b => a.start < b.start) :
    (∀ e, e ∈ settledTable c table ↔
        (e ∈ table ∧ e.start ≤ c ∧ ∀ x ∈ table, x.start ≤ c → x.start ≤ e.start) ∨ (e ∈ table ∧ c < e.start))
      ∧ (settledTable c table).Pairwise fun a b => a.start < b.start := by
  unfold settledTable
  constructor
  · intro e
    rw [List.mem_append, Option.mem_toList, ← settled_past_iff c table h e]
    simp only [List.mem_filter, decide_eq_true_eq]
  · refine List.pairwise_append.2 ⟨?_, h.filter _, fun a ha b hb => ?_⟩
    · cases (table.filter fun x => decide (x.start ≤ c)).getLast? <;> simp
    · rw [Option.mem_toList, settled_past_iff c table h] at ha
      simp only [List.mem_filter, decide_eq_true_eq] at hb
      have := ha.2.1
      have := hb.2
      omega

/-- Settling does all that R46 says. -/
theorem settleZone_settlesTo (c : Nat) (before : Option ZoneEntry) (s : State) (h : s.zoneOk) :
    s.settlesTo c before (settleZone c before s) := by
  obtain ⟨h1, h2⟩ := settledTable_spec c s.zone h.1
  have hz : (settleZone c before s).zone = settledTable c s.zone := by
    unfold settleZone State.raiseIf
    dsimp only
    split <;> rfl
  refine ⟨fun e => by rw [hz]; exact h1 e, by rw [hz]; exact h2, ?_⟩
  have hp := settled_past_iff c s.zone h.1
  unfold settleZone
  dsimp only
  cases hl : (s.zone.filter fun e => decide (e.start ≤ c)).getLast? with
  | none =>
    have hno : ¬∃ e, (e ∈ s.zone ∧ e.start ≤ c ∧ ∀ x ∈ s.zone, x.start ≤ c → x.start ≤ e.start) ∧ before ≠ some e := by
      rintro ⟨e, he, -⟩
      rw [← hp, hl] at he
      cases he
    exact ⟨Or.inl, fun k => k.resolve_right hno⟩
  | some l =>
    have hone : ∀ e, (e ∈ s.zone ∧ e.start ≤ c ∧ ∀ x ∈ s.zone, x.start ≤ c → x.start ≤ e.start) ↔ e = l := by
      intro e
      rw [← hp, hl]
      simp [eq_comm]
    simp only [hone]
    by_cases hb : before = some l
    · simp [hb, State.raiseIf, State.latched]
    · simp [hb, State.raiseIf, State.raise_latched, Ne.symm hb]

/-- What a settling leaves is seen in the zone table and the latch of ZONE_APPLIED alone. -/
theorem State.settlesTo_of_eq {c : Nat} {before : Option ZoneEntry} {s t u : State} (h : s.settlesTo c before u)
    (hz : t.zone = u.zone) (hl : t.latched .zoneApplied = u.latched .zoneApplied) : s.settlesTo c before t := by
  unfold State.settlesTo at *
  rw [hz, hl]
  exact h

end Sys2Proof.Machine
end

