-- ==== Sys2Proof/Tests/Slice0.lean ====
section
/-! SUPPORT. Small tests on fixed values: the well-formedness smoke, the worked examples of the manual, single steps, and
for every statement with hypotheses a state that meets them. -/

namespace Sys2Proof.Tests

open Sys2Proof Sys2Proof.Machine

/-! ### Small states -/

/-- A unit that has just begun to run. -/
def up : State := { State.reset with pwr := ⟨true, false, false⟩ }

/-- A running unit with a valid count, in a reference state. -/
def timed (r : RefState) (minute second : Nat) : State :=
  { up with trk := { Tracker.reset with refState := r, countValid := true, minute := minute, second := second, validAtEdge := true } }

/-- A STEADY draft for a minute. -/
def steadyDraft (minute : Nat) (participant : Bool) (digest : Word32) : Draft :=
  ⟨minute, none, digest, participant, .locked, .standby⟩

/-- A record PENDING with a standing and a next pass. -/
def pendingRecord (minute : Nat) (st : Standing) (pass : Nat) : ConcordRecord :=
  ⟨minute, .pending, none, 0, 0, none, 0, some st, some pass⟩

/-- A CONCORD record with role ASSENT. -/
def assentRecord (minute : Nat) : ConcordRecord := ⟨minute, .concord, some 5#32, 3, 1, some .assent, 7, none, none⟩

/-- A running unit in a live ALIGNED window, at a cell. -/
def atCell (second n : Nat) (sampled : Bool) : State :=
  { timed .locked 100 second with
    win :=
      { Window.neutral .opened with
        sync := some 100000, alignment := some .aligned, cell := n, sampled := sampled
        atStart := some ⟨.standby, .locked, true, .none⟩ } }

/-- The same with the unit in a key state. -/
def atCellIn (k : KeyState) (second n : Nat) (sampled : Bool) : State :=
  { atCell second n sampled with key := { KeyCtl.reset with state := k } }

/-- Nothing driven by the others, or CCO driven, or CCA pulled. -/
def nobody : OthersDrive := ⟨false, false⟩
def othersCco : OthersDrive := ⟨false, true⟩
def othersCca : OthersDrive := ⟨true, false⟩

/-- A message of a second of 2000-01-01, GOOD, plan NONE: its first eight characters. -/
def messageHead (second : Nat) : List Byte := [0, 0, 1, 0, 0, byteOf second, 0, 0]

/-- What a step leaves of a state, by one of its parts. -/
def after {α : Type} (c : Instr) (s : State) (f : State → α) : Option α :=
  match exec c s with
  | .next t => some (f t)
  | .fault _ => none
  | .refused _ => none

/-! ### Well-formed commands, and table words -/

theorem test_wf_refuses_short_frame : (Instr.cliFrame [0x11]).wf = false := by decide
theorem test_wf_refuses_frame_without_check : (Instr.cliFrame [0x11, 1, 0x0B]).wf = false := by decide
theorem test_wf_refuses_long_frame : (Instr.cliFrame [0x11, 0, 0, 0]).wf = false := by decide
theorem test_wf_refuses_length_65 : (Instr.cliFrame (0x11 :: 65 :: List.replicate 66 0)).wf = false := by decide
theorem test_wf_refuses_overrun_64 : (Instr.cliLengthOverrun 64).wf = false := by decide
theorem test_wf_accepts : (Instr.cliFrame [0x11, 1, 0x0B, 0xED]).wf = true ∧ (Instr.cliLengthOverrun 65).wf = true := by
  decide
theorem test_no_word_spells_a_command : decodeTableWord 8 0x11 = none ∧ (State.reset.withFetchWord 8 0x11) = State.reset :=
  ⟨rfl, rfl⟩

/-! ### The worked examples -/

/-- The payload of 1.7: bytes 46 and 47 are 20h and 60h. -/
def examplePayload : List Byte := List.replicate 46 0 ++ [0x20, 0x60]

theorem test_check_byte_of_1_7_2 : crc8 examplePayload = 0x89 := by decide +kernel
theorem test_check_bytes_of_R11 :
    crc8 (List.replicate 48 0) = 0 ∧ crc8 (List.replicate 47 0 ++ [1]) = 7 := by decide +kernel
theorem test_check_byte_of_11_6 : crc8 [0x11, 0x01, 0x0B] = 0xED := by decide +kernel

/-- The civil fields of 1.7.1. -/
def exampleFields : CivilFields := ⟨.summer, false, false, false, 37, 14, 140, 26, 3⟩

/-- The row of Table 1.5. -/
def exampleRow : List Symbol := symbolRow exampleFields false 17 3 4 60

theorem test_packed_row_of_table_4_3 :
    packRow exampleRow = [0x90, 0x04, 0x11, 0x45, 0x44, 0x40, 0x50, 0x05, 0x10, 0x50, 0x04, 0x04, 0x05, 0x04, 0x13] := by
  decide +kernel

/-- 2026-05-20 12:37 UTC is day 9636. -/
theorem test_calendar_of_1_7_1 : civilFields 4 [⟨0, .summer⟩] .none (9636 * 1440 + 757) = exampleFields := by
  decide +kernel

/-- The readings of Table 1.6: `.hold`, `.advance` for KYA and `.retard` for KYR, cells 360 to 391. -/
theorem test_stream_of_table_1_6 :
    ((phaseStream examplePayload 0x89).drop 360).map PhaseCell.reading =
      [.advance, .hold, .hold, .hold, .advance, .retard, .hold, .hold]
        ++ [.hold, .retard, .advance, .hold, .hold, .hold, .hold, .advance]
        ++ [.hold, .retard, .advance, .retard, .hold, .hold, .hold, .retard]
        ++ [.advance, .hold, .hold, .hold, .retard, .hold, .hold, .advance] := by decide +kernel

theorem test_stream_is_recovered :
    segmentCheckGood ((phaseStream examplePayload 0x89).map PhaseCell.reading) = true := by decide +kernel

/-- The zone table of Table 3.1. -/
def leapNightTable : List ZoneEntry := [⟨14325180, .summer⟩, ⟨14461920, .standard⟩, ⟨14849340, .summer⟩]

theorem test_leap_night_23_59 :
    civilFields 4 leapNightTable .insert 14461919 = ⟨.summer, true, true, false, 59, 1, 182, 27, 4⟩
      ∧ minuteLength 14461919 .insert = 61 := by decide +kernel
theorem test_leap_night_22_59 :
    civilFields 4 leapNightTable .insert 14461859 = ⟨.summer, false, false, false, 59, 0, 182, 27, 4⟩ := by decide +kernel
theorem test_leap_night_00_00 :
    civilFields 4 leapNightTable .insert 14461920 = ⟨.standard, false, false, false, 0, 1, 182, 27, 4⟩ := by
  decide +kernel
theorem test_leap_night_zone_due :
    (zoneDue 14461920 { timed .locked 14461920 0 with zone := leapNightTable }).zone =
      [⟨14461920, .standard⟩, ⟨14849340, .summer⟩] := by decide +kernel
theorem test_zone_remove_of_3_9_2 :
    zoneRemoveTable { timed .locked 14461918 30 with zone := leapNightTable } 14461920 = (.range, leapNightTable)
      ∧ (zoneRemoveTable { timed .locked 14461917 30 with zone := leapNightTable } 14461920).1 = .done := by decide +kernel

/-- Pass 1 of 6.7: positions 1 and 2 assent, one short of the quorum of a roll of four. -/
theorem test_pass_1_of_6_7 :
    (pendingRecord 9 .contender 1).onPass 4 ⟨1, 0x2F41A0C6, 0x06⟩ true true = pendingRecord 9 .left 2
      ∧ (pendingRecord 9 .contender 1).onPass 4 ⟨1, 0x2F41A0C6, 0x06⟩ true false = pendingRecord 9 .contender 2 := by
  decide +kernel
theorem test_pass_3_of_6_7 :
    (pendingRecord 9 .contender 3).onPass 4 ⟨3, 0x9B07E215, 0x08⟩ true true =
      ⟨9, .none, none, 1, 3, some .dissent, 0x08, some .decided, none⟩ := by decide +kernel

/-- The transaction of 11.6, and its three variations. -/
def holdsEleven : State := { up with store := up.store.set 11 { Descriptor.reset with annId := 17 } }
theorem test_desc_hand_of_11_6 :
    after (.cliFrame [0x11, 0x01, 0x0B, 0xED]) holdsEleven (fun t => (t.link.rx, (t.desc 11).owner)) =
      some (.responding (responseFrame 0x11 .done []), .generator) := by decide +kernel
theorem test_wrong_check_of_11_6 :
    after (.cliFrame [0x11, 0x01, 0x0B, 0xEE]) holdsEleven (fun t => (t.link.rx, (t.desc 11).owner)) =
      some (.responding (responseFrame 0x11 .format []), .controller) := by decide +kernel
theorem test_gap_of_11_6 :
    after (.cliCharacter 0xED) { up with link := ⟨.collecting [0x0B], false⟩ } (fun t => t.link.rx) =
      some (.draining (some 0x0B)) := by decide +kernel

/-! ### Single steps -/

theorem test_step_takes_the_front :
    step { up with pending := [.keyYield, .readmit] } = exec .keyYield { up with pending := [.readmit] } := rfl
theorem test_empty_queue_idles : step State.reset = .next State.reset := rfl

theorem test_start_clamps_the_offset :
    after (.startIntervalEnd 5 ⟨7, 3, 7, 63, true⟩) State.reset (fun t => t.straps) = some ⟨7, 3, 8, 56, .rotate⟩
      ∧ after (.startIntervalEnd 5 ⟨0, 0, 0, 64, false⟩) State.reset (fun t => t.straps) = some ⟨0, 0, 1, -48, .fixed⟩ := by
  decide +kernel

theorem test_own_edge_counts :
    after .ownEdge (timed .locked 100 10) (fun t => (t.trk.minute, t.trk.second, t.trk.lastEdge)) =
      some (100, 11, 1000000) := by decide +kernel
theorem test_own_edge_passes_the_inserted_second :
    after .ownEdge
        { timed .locked 1439 59 with trk := { (timed .locked 1439 59).trk with plan := .insert } }
        (fun t => (t.trk.minute, t.trk.second)) = some (1439, 60) := by decide +kernel
theorem test_own_edge_skips_the_deleted_second :
    after .ownEdge
        { timed .locked 1439 58 with trk := { (timed .locked 1439 58).trk with plan := .delete } }
        (fun t => (t.trk.minute, t.trk.second, t.trk.plan, t.latched .leapApplied)) = some (1440, 0, .none, true) := by
  decide +kernel
theorem test_freeze_makes_next :
    after .ownEdge (timed .locked 100 47) (fun t => (t.next.map Draft.minute, t.nextRec.map ConcordRecord.outcome)) =
      some (some 101, some .pending) := by decide +kernel

theorem test_sync_edge_is_judged :
    after (.syncEdgeObserved 102000) { timed .locked 5 5 with win := Window.neutral .opened }
        (fun t => t.win.alignment) = some (some .aligned)
      ∧ after (.syncEdgeObserved 102001) { timed .locked 5 5 with win := Window.neutral .opened }
        (fun t => t.win.alignment) = some (some .askew)
      ∧ after (.syncEdgeObserved 105001) { timed .locked 5 5 with win := Window.neutral .opened }
        (fun t => t.win.alignment) = some none := by decide +kernel

theorem test_hold_of_another_is_a_collision :
    after (.holdCellSample othersCco) (atCellIn .holding 5 4 false)
        (fun t => (t.key.state, t.key.bidBar, t.latched .collision)) = some (.standby, true, true) := by decide +kernel

theorem test_cli_response_frame : responseFrame 0x11 .owner [] = [0x11, 0x02, 0, 0, crc8 [0x11, 0x02, 0, 0]] := by
  decide +kernel

/-! ### Witnesses: states that meet the hypotheses of the statements -/

theorem test_meets_StepRunsTheFrontCommand : State.reset.pending = [] := rfl

theorem test_meets_EveryCommandAnswersNext : takenAlways .ownEdge = false ∧ State.reset.running = false := by decide

theorem test_meets_SupplyAndReset :
    State.reset.pwr.rstnLow = false ∧ ({ State.reset with pwr := ⟨true, true, false⟩ } : State).pwr.rstnLow = true := by
  decide

theorem test_meets_StartIntervalEnd : State.reset.pwr = ⟨true, false, true⟩ := rfl

/-- The edges at which one clause of R24 ends and the next begins, after an own edge at 1000000 us. -/
theorem test_meets_RefpEdge :
    let s := { timed .locked 100 10 with trk := { (timed .locked 100 10).trk with anchor := 1000000, lastEdge := 1000000 } }
    s.running = true ∧ s.trk.openMsg = none ∧ s.trk.refState = .locked ∧ s.trk.byOscillator = true
      ∧ after (.refpEdge 1994999) s (fun t => t.trk.accepted) = some none
      ∧ after (.refpEdge 1995000) s (fun t => t.trk.accepted) = some (some 1995000)
      ∧ after (.refpEdge 1999999) s (fun t => t.trk.accepted) = some (some 1999999)
      ∧ after (.refpEdge 2000000) s (fun t => (t.trk.accepted, t.trk.anchor)) = some (none, 1000000)
      ∧ after (.refpEdge 1005000) s (fun t => t.trk.anchor) = some 1005000
      ∧ after (.refpEdge 1005001) s (fun t => t.trk.anchor) = some 1000000 := by decide +kernel

/-- An open message with `n` characters of the message of second 5. -/
def messaged (r : RefState) (n : Nat) : State :=
  { timed r 0 5 with
    trk :=
      { (timed r 0 5).trk with
        openMsg := some ⟨5000000, (messageHead 5).take n⟩
        prevRef := some ⟨4000000, some ⟨0, 4⟩, .none⟩
        marks := [⟨5000000, some ⟨0, 5⟩⟩] } }

theorem test_meets_CharactersFillTheOpenMessage :
    (messaged .locked 7).running = true ∧ (messaged .locked 7).trk.openMsg = some ⟨5000000, (messageHead 5).take 7⟩
      ∧ ((messageHead 5).take 7).length < 8 ∧ up.trk.openMsg = none := by decide +kernel

/-- Messages at the ends of their ranges: the last day of a leap year and of a common year, second 86400 under INSERT. -/
def sealed (bytes : List Byte) : List Byte := bytes ++ [crc8 bytes]
theorem test_meets_ReferenceMessageDecoding :
    (decodeMessage (sealed [96, 1, 0x6E, 1, 0x51, 0x80, 1, 1])).map (fun m => (m.time.toCount, m.healthGood)) =
        some (⟨35429 * 1440 + 1439, 60⟩, false)
      ∧ (decodeMessage (sealed [97, 1, 0x6E, 0, 0, 0, 0, 0])) = none
      ∧ (decodeMessage (sealed [99, 1, 0x6D, 1, 0x51, 0x7F, 0, 0])).map RefMessage.time = some ⟨36524, 86399⟩
      ∧ (decodeMessage (sealed [99, 1, 0x6D, 1, 0x51, 0x7F, 2, 0])) = none
      ∧ (decodeMessage (sealed [99, 1, 0x6D, 1, 0x51, 0x80, 0, 0])) = none
      ∧ (decodeMessage (sealed [100, 0, 1, 0, 0, 0, 0, 0])) = none
      ∧ (decodeMessage (sealed [0, 0, 0, 0, 0, 0, 0, 0])) = none
      ∧ decodeMessage (messageHead 5 ++ [0]) = none ∧ (messageHead 5).length = 8
      ∧ (messaged .locked 8).trk.openMsg = some ⟨5000000, messageHead 5⟩ := by decide +kernel

theorem test_meets_NotGoodSecond :
    (∀ r ∈ [RefState.acquiring, .locked, .holdover, .stepping, .expired],
      (messaged r 3).running = true ∧ (messaged r 3).trk.refState = r
        ∧ (messaged r 3).trk.openMsg = some ⟨5000000, [0, 0, 1]⟩)
      ∧ ({ messaged .locked 3 with trk := { (messaged .locked 3).trk with openMsg := none } } : State).trk.prevRef =
          some ⟨4000000, some ⟨0, 4⟩, .none⟩ := by decide +kernel

/-- A POOR second, a second 1006 ms after the one before, and one that breaks the continuity: decoded, and not good. -/
theorem test_decoded_second_that_is_not_good :
    let judged (head : List Byte) (e : Nat) :=
      after (.referenceMessage (crc8 head))
        { messaged .locked 8 with trk := { (messaged .locked 8).trk with openMsg := some ⟨e, head⟩ } }
        (fun t => (t.trk.prevRef.bind RefSecond.time, t.trk.badRun))
    judged [0, 0, 1, 0, 0, 5, 0, 1] 5000000 = some (some ⟨0, 5⟩, 1)
      ∧ judged (messageHead 5) 5006000 = some (some ⟨0, 5⟩, 1) ∧ judged (messageHead 9) 5000000 = some (some ⟨0, 9⟩, 1)
      ∧ judged (messageHead 5) 5000000 = some (some ⟨0, 5⟩, 0) := by decide +kernel

/-- The hypotheses on a good second, at an edge `e`. -/
def goodAt (r : RefState) (e run : Nat) : State :=
  { messaged r 8 with
    trk := { (messaged r 8).trk with openMsg := some ⟨e, messageHead 5⟩, goodRun := run, stepConf := 3 } }

def goodHolds (s : State) (e : Nat) : Bool :=
  s.running && decide (s.trk.openMsg = some ⟨e, messageHead 5⟩)
    && decide ((messageHead 5).length = 8)
    && decide (decodeMessage (messageHead 5 ++ [crc8 (messageHead 5)]) = some ⟨⟨0, 5⟩, .none, true⟩)
    && decide (s.trk.prevRef = some ⟨4000000, some ⟨0, 4⟩, .none⟩) && decide (4000000 + 995000 ≤ e)
    && decide (e ≤ 4000000 + 1005000) && decide ((⟨0, 5⟩ : UtcTime) = (⟨0, 4⟩ : UtcTime).successor .none)

theorem test_meets_GoodSecondInAcquiring :
    goodHolds (goodAt .acquiring 4995000 0) 4995000 = true ∧ goodHolds (goodAt .acquiring 5005000 3) 5005000 = true
      ∧ (goodAt .acquiring 5005000 3).trk.refState = .acquiring ∧ (goodAt .acquiring 5005000 3).trk.goodRun = 3 := by
  decide +kernel

/-- The entry to LOCKED settles a table in order of instant: the later of two entries at or before the count becomes past. -/
theorem test_lock_settles_the_zone_table :
    let entries : List ZoneEntry := [⟨1439, .summer⟩, ⟨1440, .standard⟩, ⟨1500, .summer⟩]
    let s : State := { goodAt .acquiring 4995000 3 with zone := entries }
    (entries.Pairwise fun a b => a.start < b.start)
      ∧ after (.referenceMessage (crc8 (messageHead 5)))
          { s with zone := [⟨0, .summer⟩, ⟨1, .standard⟩] } (fun t => (t.zone, t.latched .zoneApplied)) =
        some ([⟨0, .summer⟩, ⟨1, .standard⟩], true)
      ∧ after (.referenceMessage (crc8 (messageHead 5))) s (fun t => (t.zone, t.latched .zoneApplied)) =
        some (entries, false)
      ∧ settledTable 1440 entries = [⟨1440, .standard⟩, ⟨1500, .summer⟩] := by decide +kernel

/-- A good second agrees 5 ms from the own edge of its second, and does not when the count gave it another time. -/
theorem test_meets_GoodSecondWithARunningCount :
    (∀ r ∈ [RefState.locked, .holdover, .stepping, .expired],
      goodHolds (goodAt r 4995000 3) 4995000 = true ∧ (goodAt r 4995000 3).trk.countValid = true
        ∧ (goodAt r 4995000 3).trk.agreesWith 4995000 ⟨0, 5⟩ = true
        ∧ (goodAt r 5005000 0).trk.agreesWith 5005000 ⟨0, 5⟩ = true
        ∧ (goodAt r 5005000 0).trk.agreesWith 5005001 ⟨0, 5⟩ = false
        ∧ (goodAt r 5005000 0).trk.agreesWith 5005000 ⟨0, 6⟩ = false) := by decide +kernel

/-- In a proof minute the judgement of a second reads the reference state that it leaves. -/
theorem test_judgement_in_a_proof_minute :
    let proving (s : State) : State :=
      { s with key := { KeyCtl.reset with state := .proving, proof := ⟨some 0, true, 4, false, true⟩ } }
    let held (t : State) : Bool := t.key.proof.refHeld
    goodHolds (proving (goodAt .locked 5000000 0)) 5000000 = true
      ∧ after .refdFramingError (proving (messaged .expired 3)) held = some false
      ∧ after .refdFramingError (proving (messaged .locked 3)) held = some true
      ∧ after (.referenceMessage (crc8 (messageHead 5))) (proving (goodAt .acquiring 4995000 0)) held = some false
      ∧ after (.referenceMessage (crc8 (messageHead 5))) (proving (goodAt .locked 5000000 0)) held = some true := by
  decide +kernel

theorem test_meets_OwnEdgeHoldoverAndLeapPlan :
    (timed .holdover 1438 47).trk.second = 47 ∧ (timed .holdover 1438 47).trk.minute % 1440 = 1438
      ∧ ({ timed .holdover 0 5 with trk := { (timed .holdover 0 5).trk with holdover := 3598 } } : State).trk.holdover + 1
        < 3600
      ∧ after .ownEdge { timed .holdover 0 5 with trk := { (timed .holdover 0 5).trk with holdover := 3599 } }
          (fun t => (t.trk.refState, t.trk.holdover)) = some (.expired, 3600)
      ∧ (timed .locked 1439 59).boundaryAhead ∧ ((timed .locked 1439 59).trk.minute + 1) % 1440 = 0 := by decide +kernel

/-- At the last second of minute 100 with a draft and a record for minute 101. -/
def atBoundary (r : ConcordRecord) : State :=
  { timed .locked 100 59 with
    next := some (steadyDraft 101 true 5#32), nextRec := some r
    dec := { Decoder.reset with openMinute := some ⟨100, List.replicate 59 unobservedEntry, [], 0⟩ } }

theorem test_meets_BoundaryHandsOver :
    (atBoundary (pendingRecord 101 .blind 1)).boundaryAhead
      ∧ (pendingRecord 101 .blind 1).outcome = .pending ∧ (assentRecord 101).outcome ≠ .pending
      ∧ (timed .locked 100 59).boundaryAhead ∧ (timed .locked 100 59).nextRec = none := by decide +kernel

/-- A hand-over is noted, at a boundary with a NEXT alone, and kept at another edge. -/
theorem test_hand_over_is_noted :
    after .ownEdge (atBoundary (assentRecord 101)) State.handedOver = some true
      ∧ after .ownEdge (timed .locked 100 59) State.handedOver = some false
      ∧ after .ownEdge { timed .locked 100 58 with handedOver := true } State.handedOver = some true
      ∧ after (.responseEnd 9) { up with handedOver := true, link := ⟨.responding [1], true⟩ } State.handedOver =
        some false := by decide +kernel

/-- Freezes of minute 101, of the last minute of 2099, and the edge beyond it. -/
theorem test_meets_FreezeMakesNext :
    (timed .locked 100 47).running = true ∧ (timed .locked 100 47).trk.countValid = true
      ∧ (timed .locked 100 47).trk.second = 47 ∧ 52595998 + 1 ≤ 52595999 ∧ 52595999 < 52595999 + 1
      ∧ ¬(timed .locked 100 46).boundaryAhead
      ∧ after .ownEdge (timed .locked 52595998 47) (fun t => t.next.map Draft.minute) = some (some 52595999)
      ∧ after .ownEdge (timed .locked 52595999 47) (fun t => t.next.map Draft.minute) = some none := by decide +kernel

/-- A RUNNING lane 2 whose cursor and start are descriptor 7, the only segment of announcement 9. -/
def withSegment : State :=
  { timed .locked 100 47 with
    store :=
      up.store.set 7
        { Descriptor.reset with owner := .generator, claim := some 2, annId := 9, endFlag := true, cues := [⟨30, 5⟩] }
    lanes :=
      { Lanes.reset with
        lane := Lanes.reset.lane.set 2 { Lane.reset with state := .running, cursor := some 7, start := some 7, repeats := some 1 } } }

theorem test_meets_FreezeTakesTheFirstCandidate :
    after .ownEdge withSegment
        (fun t => (t.next.bind Draft.coded).map fun c => (c.annId, c.segment.map fun g => (g.lane, g.index))) =
      some (some (9, some (2, 7)))
      ∧ after .ownEdge (timed .locked 100 47)
          (fun t => (t.next.bind Draft.coded).map fun c => (c.annId, c.segment.map fun g => (g.lane, g.index))) =
        some (some (0, none)) := by decide +kernel

/-- The window of second 47, closed, with QUIET decided. -/
def quietWindow (s : State) : State :=
  { s with
    win := Window.neutral .over
    winRec := some ⟨some 47, .aligned, .notDriven, some 0, 0, 0, .none, false, true, false, false⟩ }

/-- The freeze of a quiet minute, of a lane at a malformed descriptor, and of the final airing of a lane that reports FROZEN. -/
theorem test_freeze_cases :
    let segment (t : State) : Option LaneNo := ((t.next.bind Draft.coded).bind CodedPart.segment).map SegmentPart.lane
    let malformed := withSegment.setDesc 7 { withSegment.desc 7 with endFlag := false }
    let reporting := withSegment.setLane 2 { withSegment.laneAt 2 with report := .frozen }
    after .ownEdge (quietWindow malformed) (fun t => (segment t, (t.laneAt 2).state, t.latched .laneFault)) =
        some (none, .running, false)
      ∧ after .ownEdge malformed (fun t => (segment t, (t.laneAt 2).state, t.latched .laneFault)) =
        some (none, .faulted, true)
      ∧ after .ownEdge reporting (fun t => (segment t, t.latched .announceDone)) = some (some 2, true)
      ∧ after .ownEdge withSegment (fun t => (segment t, t.latched .announceDone)) = some (some 2, false) := by
  decide +kernel

/-- The lane of the last lane event after a freeze that faults lane 2, one that ends its announcement, and one that does
neither. -/
theorem test_last_lane_event_of_a_freeze :
    let event (t : State) : Option LaneNo := t.lanes.lastEvent
    after .ownEdge (withSegment.setDesc 7 { withSegment.desc 7 with endFlag := false }) event = some (some 2)
      ∧ after .ownEdge (withSegment.setLane 2 { withSegment.laneAt 2 with report := .frozen }) event = some (some 2)
      ∧ after .ownEdge withSegment event = some none ∧ (allLanes : List LaneNo).Nodup := by decide +kernel

/-- Minute 100 ends with a past entry and an entry for minute 101. -/
theorem test_meets_BoundaryAppliesADueZoneEntry :
    let s : State := { timed .locked 100 59 with zone := [⟨7, .summer⟩, ⟨101, .standard⟩, ⟨500, .summer⟩] }
    s.boundaryAhead ∧ (s.zone.Pairwise fun a b => a.start < b.start) ∧ s.zone.length ≤ 16
      ∧ (s.zone.filter fun e => decide (e.start ≤ s.trk.minute)).length ≤ 1
      ∧ after .ownEdge s (fun t => (t.pastEntry, t.zone)) =
        some (some ⟨101, .standard⟩, [⟨101, .standard⟩, ⟨500, .summer⟩]) := by decide +kernel

theorem test_meets_BoundaryEntersTheAirRecord :
    (atBoundary (assentRecord 101)).boundaryAhead
      ∧ (atBoundary (assentRecord 101)).dec.openMinute = some ⟨100, List.replicate 59 unobservedEntry, [], 0⟩
      ∧ after .ownEdge (atBoundary (assentRecord 101)) (fun t => (t.dec.log.map AirRecord.minute, t.latched .airIncomplete)) =
        some ([100], true) := by decide +kernel

/-- A second ended 980 ms after its edge is observed, and one ended 1 us earlier is not. -/
theorem test_meets_OwnEdgeEntersTheSecondAndSignalsItsCue :
    let s : State :=
      { timed .locked 100 3 with
        dec := { Decoder.reset with openMinute := some ⟨100, List.replicate 3 unobservedEntry, [], 0⟩ } }
    s.running = true ∧ ¬s.boundaryAhead ∧ s.win.phase ≠ .opened
      ∧ after .ownEdge { s with trk := { s.trk with accepted := some 980000 } }
          (fun t => t.dec.openMinute.map fun m => (m.entries.drop 3).map SecondEntry.observed) = some (some [true])
      ∧ after .ownEdge { s with trk := { s.trk with accepted := some 979999 } }
          (fun t => t.dec.openMinute.map fun m => (m.entries.drop 3).map SecondEntry.observed) = some (some [false]) := by
  decide +kernel

/-- A second that showed nothing, in a steady and in a coded minute with a cue for it, in a proof minute and outside one. -/
theorem test_cue_and_proof_second :
    let silent (second : Nat) : SegmentPart := ⟨2, 7, [], 0, [⟨second, 9⟩], []⟩
    let held (row : List Symbol) (second : Nat) : State :=
      { timed .locked 100 30 with
        curRec := some (assentRecord 100)
        current :=
          some
            { steadyDraft 100 true 5#32 with
              coded := some ⟨60, exampleFields, false, 17, 3, 4, row, some (silent second)⟩ }
        trk := { (timed .locked 100 30).trk with lastEdge := 2000000, anchor := 2000000 }
        dec := { Decoder.reset with openMinute := some ⟨100, List.replicate 30 unobservedEntry, [], 0⟩ } }
    let proving (s : State) : State :=
      { s with key := { KeyCtl.reset with state := .proving, proof := ⟨some 100, true, 4, false, true⟩ } }
    let cue (t : State) := (t.dec.lastCue, t.dec.cus, t.latched .cue)
    let proof (t : State) := (t.key.proof.matched, t.key.proof.missed)
    after .ownEdge (held [] 30) cue = some (9, true, true) ∧ after .ownEdge (held [] 31) cue = some (0, false, false)
      ∧ after .ownEdge (held exampleRow 30) cue = some (0, false, false)
      ∧ after .ownEdge (proving (held [] 30)) (fun t => (cue t, proof t)) = some ((9, true, true), 5, false)
      ∧ after .ownEdge (proving (held exampleRow 30)) proof = some (4, true) := by decide +kernel

/-- What an own edge at 1 s keeps of the record of the bus: the change within 20 ms before it, the level before that, and the
release of KYL at the edge. -/
theorem test_record_of_the_lines_at_an_own_edge :
    let s : State :=
      { timed .locked 100 3 with
        keying := { Keying.reset with own := ⟨true, false, false⟩ }
        dec :=
          { Decoder.reset with
            busTrace := [⟨10, false, true, false⟩, ⟨979999, false, false, true⟩, ⟨980000, true, false, false⟩] } }
    after .ownEdge s (fun t => (t.dec.busBase, t.dec.busTrace)) =
      some (⟨false, false, true⟩, [⟨980000, true, false, false⟩, ⟨1000000, linesReleased⟩]) := by decide +kernel

theorem test_meets_OwnEdgeCutsAnOpenWindow :
    (atCell 5 9 true).running = true ∧ (atCell 5 9 true).win.phase = .opened := by decide +kernel

/-- The clauses on the key state at an own edge. -/
theorem test_meets_KeyStateAtTheOwnEdge :
    let s := atBoundary (assentRecord 101)
    let yielding (release : Bool) : State :=
      { s with key := { KeyCtl.reset with state := .yielding, drivers := true, pendingRelease := release } }
    let proving (missed : Bool) : State :=
      { s with
        curRec := some (assentRecord 100), current := some (steadyDraft 100 true 5#32)
        trk := { s.trk with lastEdge := 2000000, anchor := 2000000 }
        key := { KeyCtl.reset with state := .proving, proof := ⟨some 100, true, 59, missed, true⟩ } }
    after .ownEdge { s with key := { KeyCtl.reset with state := .holding, pendingFence := true } } (fun t => t.key.state) =
        some .fenced
      ∧ after .ownEdge { s with key := { KeyCtl.reset with state := .standby, pendingTake := some 0 } }
          (fun t => (t.key.state, t.key.drivers)) = some (.holding, true)
      ∧ after .ownEdge (yielding true) (fun t => (t.key.state, t.key.drivers)) = some (.standby, false)
      ∧ after .ownEdge (yielding false) (fun t => (t.key.state, t.key.drivers)) = some (.holding, true)
      ∧ after .ownEdge
          { yielding false with win := { Window.neutral .over with atStart := some ⟨.holding, .locked, true, .none⟩ } }
          (fun t => t.key.state) = some .yielding
      ∧ (∀ resolved ∈ [false, true],
        after .ownEdge
            { yielding false with
              win :=
                { Window.neutral .over with
                  atStart := some ⟨.yielding, .locked, true, .none⟩, yieldResolved := resolved } }
            (fun t => t.key.state) = some (if resolved = true then .yielding else .holding))
      ∧ after .ownEdge { proving false with trk := (timed .locked 100 58).trk } (fun t => t.key.proof.running) = some true
      ∧ after .ownEdge
          { proving false with key := { KeyCtl.reset with state := .proving, proof := ⟨some 101, false, 0, false, true⟩ } }
          (fun t => (t.key.proof.running, t.key.proof.refHeld)) = some (true, true)
      ∧ after .ownEdge (proving false) (fun t => (t.key.state, t.latched .proven)) = some (.standby, true)
      ∧ after .ownEdge (proving true) (fun t => (t.key.state, t.latched .provingFailed)) = some (.fenced, true) := by
  decide +kernel

/-- A holder and a PROVING unit at an own edge within a minute: the output, and how long the holder has been it. -/
theorem test_output_at_an_own_edge :
    let held (k : KeyCtl) : State :=
      { timed .locked 100 5 with
        key := k, curRec := some (assentRecord 100)
        current := some { steadyDraft 100 true 5#32 with coded := some ⟨60, exampleFields, false, 0, 0, 0, exampleRow, none⟩ } }
    let holder (drivers : Bool) : KeyCtl := { KeyCtl.reset with state := .holding, drivers := drivers, heldEdges := 1 }
    let view (t : State) := (t.key.state, t.keying.out, t.key.heldEdges)
    after .ownEdge (held (holder true)) view = some (.holding, .bus, 2)
      ∧ after .ownEdge (held (holder false)) view = some (.holding, .none, 2)
      ∧ after .ownEdge { held (holder true) with current := none } view = some (.holding, .none, 2)
      ∧ after .ownEdge (held { KeyCtl.reset with state := .proving, proof := ⟨some 100, true, 4, false, true⟩ }) view =
        some (.proving, .loop, 0)
      ∧ after .ownEdge (held { KeyCtl.reset with state := .standby, pendingTake := some 6 }) view =
        some (.holding, .bus, 1) := by decide +kernel

/-- The units whose key state an own minute boundary leaves, and a DORMANT one whose window is cut. -/
theorem test_key_states_that_a_boundary_leaves :
    let s := atBoundary (assentRecord 101)
    let stays (k : KeyCtl) (w : Window) : Bool :=
      after .ownEdge { s with key := k, win := w } (fun t => (t.key.state, t.key.drivers)) == some (k.state, k.drivers)
    stays { KeyCtl.reset with state := .holding, drivers := true } s.win = true
      ∧ stays { KeyCtl.reset with state := .standby } s.win = true
      ∧ stays { KeyCtl.reset with state := .fenced } s.win = true
      ∧ stays { KeyCtl.reset with state := .proving } s.win = true
      ∧ stays { KeyCtl.reset with listening := 1, listenOpen := true } (Window.neutral .opened) = true
      ∧ stays { KeyCtl.reset with listening := 1, listenOpen := true } s.win = false := by decide +kernel

/-- The second of two listening minutes ends, with the reference LOCKED and not. -/
theorem test_meets_BoundaryClearsTheBidBarAndCountsListening :
    (∀ x ∈ [(RefState.locked, KeyState.standby), (.holdover, .dormant)],
      after .ownEdge
          { timed x.1 100 59 with key := { KeyCtl.reset with listening := 1, listenOpen := true, bidBar := true } }
          (fun t => (t.key.state, t.key.listening, t.key.bidBar)) = some (x.2, 2, false))
      ∧ (timed .locked 100 59).win.phase ≠ .opened := by decide +kernel

/-- Minute 100 as the decoder saw the row and the stream of section 1.7 in it, at the edge that ends second 59: a SPLIT is
on the bus. -/
def airedMinute : State :=
  let stream := (phaseStream examplePayload 0x89).map PhaseCell.reading
  { timed .locked 100 59 with
    trk := { (timed .locked 100 59).trk with lastEdge := 2000000, anchor := 2000000 }
    dec :=
      { Decoder.reset with
        openMinute :=
          some
            ⟨100,
              (exampleRow.take 59).mapIdx fun k y =>
                ⟨y.observed, if 1 ≤ k ∧ k ≤ 56 then (stream.drop (7 * (k - 1))).take 7 else [], false, true, none⟩,
              [], 5⟩
        busTrace :=
          [⟨2000000, true, false, false⟩, ⟨2150000, false, false, false⟩, ⟨2300000, true, false, false⟩,
            ⟨2450000, false, false, false⟩] } }

/-- Its record has the header of 1.7.1, is complete, and its segment check is good. -/
theorem test_record_of_section_1_7 :
    airedMinute.boundaryAhead
      ∧ after .ownEdge airedMinute (fun t => t.dec.log.map AirRecord.header) = some [some ⟨37, 14, 140, 26, 3, 17, 3, 4⟩]
      ∧ after .ownEdge airedMinute (fun t => t.dec.log.map fun r => (r.complete, r.segmentCheck, r.steady)) =
        some [(true, some true, false)] := by decide +kernel

/-- Lane 2 RUNNING at the segment of section 1.7 in descriptor 7, with the end flag and the lane as given; lane 0 WAITING. -/
def airingLane (endFlag : Bool) (lane : Lane) : State :=
  let free := Lanes.reset.lane.set 0 { Lane.reset with state := .waiting, countdown := 1 }
  { airedMinute with
    store :=
      up.store.set 7
        { Descriptor.reset with owner := .generator, claim := some 2, annId := 17, segNo := 3, lastSeg := 4, endFlag := endFlag }
    lanes := { Lanes.reset with lane := free.set 2 { lane with state := .running, cursor := some 7, start := some 7 } } }

/-- What a boundary leaves of lane 2 and of descriptor 7. -/
structure CreditView where
  lane : LaneState
  cursor : Option DescIndex
  countdown : Nat
  aired : Nat
  owner : Owner
  done : Bool
  deriving DecidableEq, Repr

def creditView (t : State) : CreditView :=
  ⟨(t.laneAt 2).state, (t.laneAt 2).cursor, (t.laneAt 2).countdown, (t.desc 7).aired, (t.desc 7).owner,
    t.latched .announceDone⟩

/-- A lane of one airing. -/
def once : Lane := { Lane.reset with repeats := some 1 }

/-- No credit, a credit without the end flag, a repeat, and the write-back under each report point. -/
theorem test_meets_BoundaryCreditsALane :
    (airingLane true once).boundaryAhead ∧ airedMinute.dec.openMinute ≠ none
      ∧ after .ownEdge { airingLane true once with dec := Decoder.reset } creditView =
        some ⟨.running, some 7, 0, 0, .generator, false⟩
      ∧ after .ownEdge (airingLane false once) creditView = some ⟨.stopped, none, 0, 1, .generator, false⟩
      ∧ after .ownEdge (airingLane true { once with repeats := some 2, spacing := 5 }) creditView =
        some ⟨.waiting, some 7, 5, 1, .generator, false⟩ := by decide +kernel
theorem test_end_of_an_announcement :
    after .ownEdge (airingLane true once) creditView = some ⟨.stopped, none, 0, 1, .controller, true⟩
      ∧ after .ownEdge (airingLane true { once with report := .frozen }) creditView =
        some ⟨.stopped, none, 0, 1, .controller, false⟩
      ∧ after .ownEdge (airingLane true once) (fun t => ((t.laneAt 0).state, (t.laneAt 0).countdown)) =
        some (.running, 0) := by decide +kernel

/-- A realign armed and due, with the latest edge's message open or judged, onto the minute in progress or another. -/
def stepping (u : UtcTime) (opened : Option OpenMessage) : State :=
  { timed .stepping 0 0 with
    current := some (steadyDraft 0 true 5#32)
    trk :=
      { (timed .stepping 0 0).trk with
        armed := true, realignDue := true, lastEdge := 5000000, anchor := 5000000, openMsg := opened
        prevRef := some ⟨4996000, some u, .none⟩ } }
theorem test_meets_RealignMovesTheCountAndTheDraft :
    (stepping ⟨0, 7⟩ none).running = true ∧ (stepping ⟨0, 7⟩ none).trk.realignDue = true
      ∧ (stepping ⟨0, 7⟩ none).trk.openMsg = none
      ∧ after .realign (stepping ⟨0, 7⟩ none) (fun t => (t.trk.minute, t.trk.second, t.trk.anchor, t.current.isSome)) =
        some (0, 7, 4996000, true)
      ∧ after .realign (stepping ⟨0, 67⟩ (some ⟨5005000, []⟩))
          (fun t => (t.trk.minute, t.trk.second, t.trk.anchor, t.current.isSome)) = some (1, 8, 5005000, false)
      ∧ after .realign (stepping ⟨0, 67⟩ (some ⟨5005001, []⟩))
          (fun t => (t.trk.minute, t.trk.second, t.trk.anchor, t.current.isSome)) = some (1, 7, 4996000, false) := by
  decide +kernel

/-- A kept CURRENT, tick 0 in progress on the bus, goes on in second 7: its dip begins at the realign. -/
theorem test_realign_goes_on_in_the_new_second :
    let s : State :=
      { stepping ⟨0, 7⟩ none with
        current := some { steadyDraft 0 true 5#32 with coded := some ⟨60, exampleFields, false, 0, 0, 0, exampleRow, none⟩ }
        keying := { Keying.reset with out := .bus, nextTick := 1 } }
    after .realign s (fun t => (t.keying.own, t.dec.busTrace)) =
      some (⟨true, false, false⟩, [⟨5005000, true, false, false⟩]) := by decide +kernel

theorem test_meets_TicksPutThePattern :
    ({ timed .locked 0 5 with keying := { Keying.reset with nextTick := 19 } } : State).keying.nextTick < 20
      ∧ 0 < Keying.reset.nextTick ∧ up.running = true := by decide +kernel

/-- The draft of section 1.7. -/
def exampleDraft : Draft :=
  draftOf (9636 * 1440 + 757)
    (some
      { symbolCount := 60, civil := exampleFields, quality := false, annId := 17, segNo := 3, lastSeg := 4, row := exampleRow
        segment := some (segmentOf 0 3 { Descriptor.reset with payload := examplePayload }) })
    .locked .standby

/-- A MARK, a ONE and the SPLIT of the example, the strobe of cell 360 in second 52, tick 16, and a second beyond the row. -/
theorem test_meets_PatternOfATick :
    (patternLines (some exampleDraft) 0 11, patternLines (some exampleDraft) 0 12) = (⟨true, false, false⟩, linesReleased)
      ∧ (patternLines (some exampleDraft) 6 5, patternLines (some exampleDraft) 6 6) = (⟨true, false, false⟩, linesReleased)
      ∧ patternLines (some exampleDraft) 52 16 = ⟨false, true, false⟩
      ∧ (patternLines (some exampleDraft) 59 6).kyl = true ∧ patternLines (some exampleDraft) 60 0 = linesReleased := by
  decide +kernel

/-- Dips at the edges of what Table 8.1 accepts. -/
theorem test_meets_DipsAndStrobesAreClassed :
    classifyDips 1000000 [(990000, 1120000)] = .zero ∧ classifyDips 1000000 [(1010000, 1330000)] = .one
      ∧ classifyDips 1000000 [(1000000, 1620000)] = .mark ∧ classifyDips 1000000 [(989999, 1139999)] = .unclear
      ∧ classifyDips 1000000 [(1000000, 1170001)] = .unclear
      ∧ classifyDips 1000000 [(1000000, 1150000), (1320000, 1450000)] = .split
      ∧ classifyDips 1000000 [(1000000, 1150000), (1320001, 1450001)] = .unclear := by decide +kernel

/-- The stretches of a span, cut off at both ends, with a change back at one instant; and an assertion and a release of KYL
at 5 ms and 1 us below. -/
theorem test_lines_are_filtered :
    assertedIntervals KeyingLines.kyl 980000 1980000 linesReleased
        [⟨970000, true, false, false⟩, ⟨990000, linesReleased⟩, ⟨990000, true, false, false⟩, ⟨1000000, linesReleased⟩,
          ⟨1979000, true, false, false⟩] = [(980000, 1000000), (1979000, 1980000)]
      ∧ seenDips [(0, 4999)] = [] ∧ seenDips [(0, 5000)] = [(0, 5000)]
      ∧ seenDips [(0, 10000), (14999, 20000)] = [(0, 20000)]
      ∧ seenDips [(0, 10000), (15000, 20000)] = [(0, 10000), (15000, 20000)]
      ∧ classifyDips 0 [(0, 150000), (300000, 450000), (600000, 750000)] = .unclear := by decide +kernel

/-- A strobe at each edge of what cell 0 of second 5 takes, one too long, and one on each line of a cell. -/
theorem test_strobes_are_classed :
    let seen (trace : List LineSample) :=
      let o := observeSpan 5 1000000 linesReleased trace
      (o.cells.head?, o.stray)
    let strobe (start stop : Nat) : List LineSample := [⟨start, false, true, false⟩, ⟨stop, false, false, false⟩]
    seen [] = (some .hold, false) ∧ seen (strobe 1635000 1640000) = (some .advance, false)
      ∧ seen (strobe 1665000 1685000) = (some .advance, false) ∧ seen (strobe 1634999 1644999) = (some .hold, true)
      ∧ seen (strobe 1650000 1670001) = (some .hold, true) ∧ seen (strobe 1650000 1654999) = (some .hold, false)
      ∧ seen [⟨1650000, false, false, true⟩, ⟨1660000, false, false, false⟩] = (some .retard, false)
      ∧ seen [⟨1650000, false, true, true⟩, ⟨1660000, false, false, false⟩] = (some .double, false) := by decide +kernel

/-- The days at the ends of the calendar: 1999-12-31 local, 2000-01-01, 2099-12-31, and 2100-01-01 local. -/
theorem test_meets_CivilFieldsOfAMinute :
    civilFields (-48) [] .none 0 = ⟨.standard, false, false, false, 0, 12, 365, 99, 5⟩
      ∧ civilFields 0 [] .none 0 = ⟨.standard, false, false, false, 0, 0, 1, 0, 6⟩
      ∧ civilFields 0 [] .none 52595999 = ⟨.standard, false, false, false, 59, 23, 365, 99, 4⟩
      ∧ (civilFields 0 [⟨7, .summer⟩, ⟨500, .standard⟩] .none 6).zone = .standard
      ∧ (civilFields 0 [⟨7, .summer⟩, ⟨500, .standard⟩] .none 499).zone = .summer
      ∧ civilFields 56 [⟨0, .summer⟩] .none 52595999 = ⟨.summer, false, false, false, 59, 14, 1, 0, 5⟩ := by
  decide +kernel

/-- A holder that has KYL released while another unit asserts it, after the first tick of a second. -/
theorem test_meets_BusReadback :
    let s : State :=
      { atCellIn .holding 5 9 true with keying := { Keying.reset with nextTick := 1, peer := ⟨true, false, false⟩ } }
    s.running = true ∧ 0 < s.keying.nextTick ∧ s.keying.own.kyl = false ∧ s.keying.peer.kyl = true
      ∧ after .kylReadback s (fun t => t.key.state) = some .standby := by decide +kernel

/-- A window that waits, one that has opened with no edge in HOLDOVER, and the edge that is too early to drive SYNC. -/
theorem test_meets_WindowOpensAndSyncIsDriven :
    let waiting : State := { timed .locked 5 5 with win := Window.neutral .waiting }
    waiting.running = true ∧ waiting.win.phase = .waiting
      ∧ after .ownWindowStart { waiting with win := { waiting.win with sync := some 98000 } }
          (fun t => t.win.syncDrive) = some .atStart
      ∧ after .ownWindowStart { waiting with win := { waiting.win with sync := some 97999 } }
          (fun t => t.win.syncDrive) = some .notDriven
      ∧ after .lateSync
          { waiting with
            win := { Window.neutral .opened with atStart := some ⟨.standby, .holdover, true, .none⟩ } }
          (fun t => (t.win.syncDrive, t.win.syncDriving)) = some (.late, true) := by decide +kernel

/-- The flag standing of a unit with a participant's NEXT: free before the first hand-over, given after it, and none without
a draft. -/
theorem test_flag_standing :
    let s : State := { up with next := some (steadyDraft 101 true 5#32) }
    s.standing = Config.standingBeforeHandOver ∧ ({ s with handedOver := true } : State).standing = true
      ∧ ({ s with handedOver := true, next := some (steadyDraft 101 false 5#32) } : State).standing = false
      ∧ ({ up with handedOver := true } : State).standing = false := ⟨rfl, rfl, rfl, rfl⟩

/-- The ends of the watch interval, and the instant of the unit's own late SYNC. -/
theorem test_meets_ObservedEdge :
    let s : State := { timed .holdover 5 5 with win := Window.neutral .opened }
    s.running = true ∧ s.win.phase ≠ .over ∧ s.win.sync = none
      ∧ after (.syncEdgeObserved 80000) s (fun t => t.win.alignment) = some (some .askew)
      ∧ after (.syncEdgeObserved 79999) s (fun t => t.win.alignment) = some none
      ∧ after (.syncEdgeObserved 105000) s (fun t => t.win.alignment) = some (some .askew)
      ∧ after (.syncEdgeObserved 103000) { s with win := { s.win with syncDrive := .late } }
          (fun t => t.win.alignment) = some (some .aligned) := by decide +kernel

/-- A dead pass window of a contender, and a dead last-second window of a unit that was to yield in it. -/
theorem test_meets_DeadWindow :
    let s : State :=
      { timed .locked 100 50 with
        win := Window.neutral .opened, next := some (steadyDraft 101 true 5#32)
        nextRec := some (pendingRecord 101 .contender 1) }
    let y : State :=
      { timed .locked 100 59 with
        win := { Window.neutral .opened with atStart := some ⟨.yielding, .locked, true, .none⟩ }
        key := { KeyCtl.reset with state := .yielding } }
    s.running = true ∧ s.win.phase = .opened ∧ s.win.sync = none ∧ s.windowPass = some 1
      ∧ after .deadWindow s (fun t => t.nextRec.bind ConcordRecord.standing) = some (some .blind)
      ∧ y.lastSecondWindow = true ∧ after .deadWindow y (fun t => t.key.state) = some .holding := by decide +kernel

/-- Cell starts at the first and the last cell, and at the cells where two rows of Table 5.2 meet. -/
theorem test_meets_CellsAreDrivenByTheMap :
    (∀ x ∈ [(0, 1), (16, 17), (17, 18), (20, 21), (52, 53), (60, 61), (61, 62), (65, 66)],
      let s := atCell 50 x.1 true
      s.running = true ∧ s.win.phase ≠ .over ∧ s.win.atStart ≠ none ∧ s.win.alignment ≠ none
        ∧ (s.win.cell = 0 ∨ s.win.sampled = true) ∧ after .cellDriveStart s (fun t => t.win.cell) = some x.2)
      ∧ (atCell 50 0 false).win.cell = 0 := by decide +kernel

theorem test_meets_PresentAndHoldCells :
    (atCell 5 1 false).beforeSample (1 + 2 * 0) ∧ (atCell 5 15 false).beforeSample (1 + 2 * 7)
      ∧ (atCell 5 2 false).beforeSample (2 + 2 * 0) ∧ (atCell 5 16 false).beforeSample (2 + 2 * 7)
      ∧ after (.holdCellSample othersCco) (atCellIn .holding 5 2 false) (fun t => (t.key.state, t.win.hold)) =
        some (.holding, 1#8)
      ∧ after (.holdCellSample othersCco) (atCellIn .standby 5 2 false) (fun t => t.latched .collision) = some true
      ∧ after (.holdCellSample nobody) (atCellIn .holding 5 16 false) (fun t => (t.key.state, t.win.hold)) =
        some (.holding, 0#8) := by decide +kernel

/-- Before the own window start of a last second a YIELDING holder takes its own HOLD cell reading 1 as a collision. -/
theorem test_hold_cell_before_the_window_start :
    let early (k : KeyState) : State :=
      { atCellIn k 59 2 false with
        win := { (atCell 59 2 false).win with phase := .waiting, alignment := some .askew, atStart := none } }
    (early .yielding).beforeSample 2
      ∧ after (.holdCellSample othersCco) (early .yielding) (fun t => (t.key.state, t.latched .collision)) =
        some (.standby, true)
      ∧ after (.holdCellSample othersCco) (early .holding) (fun t => (t.key.state, t.latched .collision)) =
        some (.holding, false) := by decide +kernel

/-- Each outcome of the SHADOW cell, with a holder accused and with an accuser at its second and its third SPLIT. -/
theorem test_meets_ShadowCell :
    let accuser (n : Nat) : State :=
      { atCellIn .standby 5 17 false with
        win :=
          { (atCell 5 17 false).win with driveCco := true, atStart := some ⟨.standby, .locked, true, .accuse⟩ }
        key := { KeyCtl.reset with state := .standby, unsupported := n } }
    (atCell 5 17 false).beforeSample 17 ∧ (accuser 1).beforeSample 17
      ∧ after (.shadowSample nobody) (atCell 5 17 false) (fun t => t.win.shadow) = some .none
      ∧ after (.shadowSample othersCco)
          { atCellIn .holding 5 17 false with key := { KeyCtl.reset with state := .holding, heldEdges := 2 } }
          (fun t => t.key.pendingFence) = some true
      ∧ after (.shadowSample othersCca) (accuser 1) (fun t => (t.key.unsupported, t.key.state)) = some (2, .standby)
      ∧ after (.shadowSample othersCca) (accuser 2) (fun t => (t.key.unsupported, t.key.state)) = some (0, .fenced) := by
  decide +kernel

theorem test_meets_FlagCells :
    (atCell 5 18 false).beforeSample 18 ∧ (atCell 5 19 false).beforeSample 19 ∧ (atCell 5 20 false).beforeSample 20
      ∧ (atCell 5 20 false).win.syncDriving = false := by decide +kernel

/-- A vacancy is seen, and the eligible unit bids. -/
theorem test_meets_VacancyAndBid :
    let s : State :=
      { atCellIn .standby 5 20 true with
        curRec := some (assentRecord 100), key := { KeyCtl.reset with state := .standby, beaconAbsent := true } }
    s.afterSample 20 ∧ s.win.vacancyTaken = false
      ∧ after .vacancy s (fun t => (t.win.vacancy, t.win.bidder)) = some (true, true) := by decide +kernel

/-- The first and the last DIGEST cell, the pass result, and the first and the last ASSENT cell. -/
theorem test_meets_PassCells :
    (atCell 50 21 false).beforeSample 21 ∧ (atCell 52 52 false).beforeSample 52
      ∧ (atCell 51 52 true).afterSample 52 ∧ (atCell 51 52 true).win.passResult = none
      ∧ (atCell 51 52 true).windowPass ≠ none
      ∧ (atCell 50 53 false).beforeSample (53 + 0) ∧ (atCell 52 60 false).beforeSample (53 + 7)
      ∧ (atCell 52 60 false).windowPass = some 3 := by decide +kernel

/-- A pass decided at the quorum of a roll of four, and one assent short of it in passes 1 and 3. -/
theorem test_meets_PassDecision :
    let s (second pass : Nat) (a : PosSet) : State :=
      { atCell second 60 true with
        straps := ⟨0, 0, 4, 0, .fixed⟩
        next := some (steadyDraft 101 true 5#32)
        nextRec := some (pendingRecord 101 .contender pass)
        win := { (atCell second 60 true).win with passResult := some 5#32, assents := a } }
    (s 50 1 7).afterSample 60 ∧ (s 50 1 7).windowPass = some 1 ∧ (s 52 3 3).windowPass = some 3
      ∧ (let blind (second pass : Nat) (a : PosSet) : State :=
          { s second pass a with nextRec := some (pendingRecord 101 .blind pass) }
        let left (t : State) := t.nextRec.map fun r => (r.outcome, r.tally)
        after .passDecision (blind 50 1 7) left = some (some (.concord, 3))
          ∧ after .passDecision (blind 52 3 3) left = some (some (.none, 2))
          ∧ after .passDecision (blind 52 3 0) left = some (some (.pending, 0))
          ∧ after .passDecision (blind 51 2 3) left = some (some (.pending, 0)))
      ∧ after .passDecision (s 50 1 7) (fun t => t.nextRec.map ConcordRecord.role) = some (some (some .assent))
      ∧ after .passDecision (s 50 1 3) (fun t => t.nextRec.map ConcordRecord.standing) = some (some (some .left))
      ∧ after .passDecision (s 52 3 3) (fun t => t.nextRec.map ConcordRecord.outcome) = some (some .none) := by
  decide +kernel

/-- The BIDDING cell of the last second for a unit that yields, and the first and the last BIDVALUE cell. -/
theorem test_meets_BiddingAndBidValue :
    let y : State :=
      { atCellIn .yielding 59 61 false with
        win := { (atCell 59 61 false).win with atStart := some ⟨.yielding, .locked, true, .none⟩ } }
    let b (n : Nat) : State :=
      { atCellIn .standby 59 n false with
        win := { (atCell 59 n false).win with bidder := true, bidDriving := true, pullCca := true } }
    y.beforeSample 61 ∧ y.lastSecondWindow = true
      ∧ after (.biddingSample othersCco) y (fun t => t.key.pendingRelease) = some true
      ∧ after (.biddingSample nobody) y (fun t => t.key.state) = some .holding
      ∧ (b 62).beforeSample 62 ∧ (b 66).beforeSample 66
      ∧ after (.bidvalueCellSample nobody) (b 66) (fun t => t.key.pendingTake) = some (some 0) := by decide +kernel

/-- A window that closes ALIGNED, and the fifth of a run that closes ASKEW. -/
theorem test_meets_WindowClose :
    let s (a : Machine.Alignment) : State :=
      { atCellIn .holding 5 66 true with
        win := { (atCell 5 66 true).win with alignment := some a }
        key := { KeyCtl.reset with state := .holding, askewRun := 4 } }
    (s .aligned).afterSample 66 ∧ (s .aligned).win.phase = .opened ∧ (s .askew).afterSample 66
      ∧ (s .askew).win.sync = some 100000
      ∧ after .windowClose (s .aligned) (fun t => (t.key.askewRun, t.key.state, t.win.phase)) = some (0, .holding, .over)
      ∧ after .windowClose (s .askew) (fun t => (t.key.askewRun, t.key.state, t.latched .skew)) =
        some (5, .yielding, true) := by decide +kernel

/-- The receiver states that the clauses name, with the lengths 64 and 65. -/
theorem test_meets_ReceiverTakesCharacters :
    up.running = true ∧ up.link.rx = .empty
      ∧ after (.cliCharacter 64) (up.setRx (.collecting [0x10])) (fun t => t.link.rx) = some (.collecting [0x10, 64])
      ∧ after (.cliLengthOverrun 65) (up.setRx (.collecting [0x10])) (fun t => t.link.rx) = some (.draining (some 0x10))
      ∧ after .cliGapTimeout (up.setRx (.draining none)) (fun t => t.link.rx) = some .empty
      ∧ after (.cliCharacter 7) (up.setRx (.responding [1])) (fun t => t.link.rx) = some (.responding [1]) := by
  decide +kernel

/-- The last character of a DESC HAND frame, right and wrong, and the frame as a row. -/
theorem test_last_character_of_a_frame :
    let s := up.setRx (.collecting [0x11, 1, 0x0B])
    after (.cliCharacter 0xED) s (fun t => t.link.rx) = some (.responding (responseFrame 0x11 .range []))
      ∧ after (.cliCharacter 0xEE) s (fun t => t.link.rx) = some (.responding (responseFrame 0x11 .format []))
      ∧ after (.cliFrame [0x11, 1, 0x0B, 0xED]) up (fun t => t.link.rx) =
        some (.responding (responseFrame 0x11 .range [])) := by decide +kernel

theorem test_meets_FramesAreChecked :
    requestOf 0x7F [] = none ∧ requestOf 0x11 [] = none ∧ requestOf 0x11 [0x0B] = some (.descHand 0x0B)
      ∧ crc8 [0x11, 1, 0x0B] ≠ 0xEE := by decide +kernel

theorem test_meets_hears : up.hears := ⟨by decide, rfl⟩

/-- A command row that comes upon the bytes of another frame: they make a frame with a wrong check byte, or a longer one. -/
theorem test_command_upon_a_fragment :
    after .keyYield (up.setRx (.collecting [0x11, 0])) (fun t => t.link.rx) =
        some (.responding (responseFrame 0x11 .format []))
      ∧ after .keyYield (up.setRx (.collecting [0x10, 60])) (fun t => t.link.rx) =
        some (.collecting [0x10, 60, 0x30, 0, crc8 [0x30, 0]])
      ∧ after .keyYield (up.setRx (.collecting [])) (fun t => t.link.rx) =
        some (.responding (responseFrame 0x30 .state [])) := by decide +kernel

theorem test_meets_ResponseEndAndRestart :
    let s : State := { up with link := ⟨.responding [1], true⟩ }
    s.running = true ∧ s.link.rx = .responding [1] ∧ s.link.restartPending = true
      ∧ after (.responseEnd 9) s (fun t => t.link) = some ⟨.empty, false⟩ := by decide +kernel

theorem test_meets_EventCommands :
    (0x7FFFFF#24).getLsbD 23 = false ∧ (0x800000#24).getLsbD 23 = true ∧ up.lanes.rotation.length = 4 := by decide

/-- A body of DESC WRITE for descriptor 7 at the ends of its ranges. -/
def writeBody (link cues : Byte) : DescBody :=
  ⟨7, 255, 31, 31, 15, 1, link, cues, 1, 1, 56, 15, Vector.replicate 48 0xAA⟩
theorem test_meets_DescWrite :
    after (.descWrite (writeBody 0xFF 2)) up (fun t => ((t.desc 7).annId, (t.desc 7).link, (t.desc 7).cues)) =
        some (255, none, [⟨1, 1⟩, ⟨56, 15⟩])
      ∧ after (.descWrite (writeBody 127 0)) up (fun t => ((t.desc 7).link, (t.desc 7).cues)) = some (some 127, [])
      ∧ after (.descWrite (writeBody 128 0)) up (fun t => (t.desc 7).annId) = some 0
      ∧ (up.desc 7).owner = .controller ∧ (withSegment.desc 7).owner = .generator := by decide +kernel

/-- A lane that starves at a descriptor, which is handed; and the states that DESC RECALL tells apart. -/
def starving : State :=
  { up with
    store := up.store.set 7 { Descriptor.reset with annId := 9 }
    lanes :=
      { Lanes.reset with lane := Lanes.reset.lane.set 2 { Lane.reset with state := .starved, cursor := some 7, start := some 7 } } }
theorem test_meets_DescHandAndRecall :
    (starving.laneAt 2).state = .starved ∧ (starving.laneAt 2).cursor = some 7 ∧ (starving.desc 7).claim = none
      ∧ after (.descHand 7) starving (fun t => ((t.desc 7).claim, (t.laneAt 2).state)) = some (some 2, .running)
      ∧ after (.descRecall 7) withSegment (fun t => (t.desc 7).owner) = some .generator
      ∧ after (.descRecall 7) (withSegment.setLane 2 { withSegment.laneAt 2 with state := .stopped })
          (fun t => ((t.desc 7).owner, (t.desc 7).claim)) = some (.controller, none) := by decide +kernel

/-- Lanes 1 and 3 starve at the descriptor too: lane 1 takes it, with its repeats, and lanes 2 and 3 fault. -/
theorem test_hand_to_starving_lanes :
    let x : Lane := starving.laneAt 2
    let s := ((starving.setLane 1 x).setLane 3 x).setDesc 7 { starving.desc 7 with repeats := 4 }
    after (.descHand 7) s (fun t => (t.laneAt 1, t.laneAt 2)) =
        some ({ x with state := .running, repeats := some 4 }, { x with state := .faulted })
      ∧ after (.descHand 7) s (fun t => (t.laneAt 3, t.latched .laneFault, t.lanes.lastEvent)) =
        some ({ x with state := .faulted }, true, some 3)
      ∧ after (.descHand 7) starving (fun t => (t.latched .laneFault, t.lanes.lastEvent)) = some (false, none) := by
  decide +kernel

/-- RESUME, CLEAR and START in each of the cases that their statements name. -/
theorem test_meets_LaneCommands :
    let stopped := withSegment.setLane 2 { withSegment.laneAt 2 with state := .stopped }
    let other := stopped.setDesc 7 { stopped.desc 7 with claim := some 3 }
    let free := stopped.setDesc 7 { stopped.desc 7 with owner := .controller, claim := none }
    (after (.laneResume 2) stopped (fun t => (t.laneAt 2).state) = some .running
        ∧ after (.laneResume 2) other (fun t => (t.laneAt 2).state) = some .faulted
        ∧ after (.laneResume 2) free (fun t => (t.laneAt 2).state) = some .starved)
      ∧ (after (.laneStart 2 7 0 1) stopped (fun t => (t.laneAt 2).state) = some .running
        ∧ after (.laneStart 2 7 0 1) other (fun t => (t.laneAt 2).state) = some .faulted
        ∧ after (.laneStart 2 7 0 1) free (fun t => (t.laneAt 2).state) = some .starved
        ∧ after (.laneStart 2 7 0 1) withSegment (fun t => t.link.rx) = some (.responding (responseFrame 0x18 .state [])))
      ∧ (after (.laneClear 2) stopped (fun t => ((t.laneAt 2).cursor, (t.desc 7).claim)) = some (none, none)
        ∧ after (.laneClear 2) withSegment (fun t => (t.laneAt 2).cursor) = some (some 7)
        ∧ after (.laneStop 2) withSegment (fun t => (t.laneAt 2).state) = some .stopped) := by decide +kernel

/-- ZONE ADD and REMOVE with a past entry, a full table, and the minutes at which two cases of R47 meet. -/
theorem test_meets_ZoneAddAndRemove :
    let s : State := { timed .locked 100 30 with zone := [⟨7, .summer⟩, ⟨500, .standard⟩] }
    let full : State := { timed .locked 100 30 with zone := (List.range 16).map fun i => ⟨200 + i, .summer⟩ }
    (s.zone.Pairwise fun a b => a.start < b.start) ∧ s.pastEntry = some ⟨7, .summer⟩
      ∧ (zoneAddTable s 100 0).1 = .done ∧ (zoneAddTable s 101 0).1 = .range ∧ (zoneAddTable s 102 0).1 = .range
      ∧ (zoneAddTable s 103 0).1 = .done ∧ (zoneAddTable s 6 0).1 = .range ∧ (zoneAddTable s 500 0).1 = .range
      ∧ (zoneAddTable s 52595999 1).1 = .done ∧ (zoneAddTable s 52596000 1).1 = .range ∧ (zoneAddTable s 103 2).1 = .range
      ∧ (zoneAddTable full 103 0).1 = .full ∧ (zoneRemoveTable s 500).1 = .done ∧ (zoneRemoveTable s 7).1 = .done
      ∧ (zoneAddTable up 103 0).1 = .state := by decide +kernel

/-- REQUEST SET in the STEADY and in the QUIET cell before its sample point; KEY YIELD and READMIT where they act. -/
theorem test_meets_RequestYieldAndReadmit :
    (atCell 5 18 false).win.phase ≠ .over ∧ (atCell 5 18 false).win.alignment = some .aligned
      ∧ (atCell 5 18 false).win.sampled = false
      ∧ after (.requestSet 1 0) (atCell 5 18 false) (fun t => (t.win.driveCco, t.win.pullCca)) = some (true, false)
      ∧ after (.requestSet 0 1) (atCell 5 19 false) (fun t => (t.win.driveCco, t.win.pullCca)) = some (true, false)
      ∧ after .keyYield (atCellIn .holding 5 9 true) (fun t => t.key.state) = some .yielding
      ∧ after .readmit (atCellIn .fenced 5 9 true) (fun t => t.key.state) = some .proving
      ∧ after .readmit (atCellIn .standby 5 9 true) (fun t => t.key.state) = some .standby := by decide +kernel

/-- Steps of a running unit, with a command at the front, from a state that meets the kept conditions. -/
theorem test_meets_kept_conditions :
    (step { up with pending := [.ownEdge] } = exec .ownEdge up) ∧ up.running = true
      ∧ (Instr.ownEdge ∉ [Instr.powerOn, .rstnAssert, .rstnRelease, .supplyLoss]) := by
  refine ⟨rfl, by decide, by decide⟩

end Sys2Proof.Tests
end

section
/-! SUPPORT. The line pattern of a tick (R2, R3, R9, R18, R19): what `patternLines` answers with and without a symbol for the
second, and when a phase cell gives a strobe. -/

namespace Sys2Proof.Machine

/-- A steady minute asserts nothing (R18). -/
theorem patternLines_of_steady {d : Draft} (h : d.coded = none) (second tick : Nat) :
    patternLines (some d) second tick = linesReleased := by
  simp [patternLines, h]

/-- Beyond the row nothing is asserted (R19). -/
theorem patternLines_beyond_row {d : Draft} {c : CodedPart} {second : Nat} (hc : d.coded = some c)
    (h : c.row.length ≤ second) (tick : Nat) : patternLines (some d) second tick = linesReleased := by
  simp [patternLines, hc, List.getElem?_eq_none h]

/-- What a phase cell asserts on the strobe line of a direction (R9). -/
def PhaseCell.strobes (dir : Direction) : PhaseCell → Bool
  | .hold => false
  | .flip e _ => decide (e = dir)

theorem PhaseCell.strobes_iff {dir : Direction} {cell : PhaseCell} :
    cell.strobes dir = true ↔ ∃ kind, cell = .flip dir kind := by
  cases cell <;> simp [PhaseCell.strobes]

/-- The two strobe lines are never asserted by one cell (R2). -/
theorem PhaseCell.strobes_exclusive {cell : PhaseCell} (h : cell.strobes .advance = true) :
    cell.strobes .retard = false := by
  obtain ⟨kind, rfl⟩ := strobes_iff.mp h
  rfl

/-- Within the row, KYL follows the symbol and the strobe lines follow the phase cell (R19). -/
theorem patternLines_of_symbol {d : Draft} {c : CodedPart} {second : Nat} {sym : Symbol} (hc : d.coded = some c)
    (hsym : c.row[second]? = some sym) (tick : Nat) :
    patternLines (some d) second tick =
      ⟨sym.dips tick, (c.cellAt second tick).strobes .advance, (c.cellAt second tick).strobes .retard⟩ := by
  simp only [patternLines, Option.bind_some, hc, hsym]
  cases c.cellAt second tick with
  | hold => rfl
  | flip dir kind => cases dir <;> rfl

theorem Symbol.dips_iff (sym : Symbol) (tick : Nat) :
    sym.dips tick = true ↔
      match sym with
      | .zero => tick ≤ 2
      | .one => tick ≤ 5
      | .mark => tick ≤ 11
      | .split => tick ≤ 2 ∨ (6 ≤ tick ∧ tick ≤ 8) := by
  cases sym <;> simp [Symbol.dips]

/-- Every dip ends by tick 11 (R2). -/
theorem Symbol.dips_of_guard_or_later (sym : Symbol) {tick : Nat} (h : 12 ≤ tick) : sym.dips tick = false := by
  cases sym <;> simp [Symbol.dips] <;> omega

/-- A flip stands in a phase cell alone, and there it is the stream's (R9). -/
theorem CodedPart.cellAt_eq_flip_iff {c : CodedPart} {second tick : Nat} (ht : tick < 20) {dir : Direction}
    {kind : FlipKind} :
    c.cellAt second tick = .flip dir kind ↔
      ∃ g, c.segment = some g ∧ 1 ≤ second ∧ second ≤ 56 ∧ 13 ≤ tick
        ∧ g.stream[7 * (second - 1) + (tick - 13)]? = some (.flip dir kind) := by
  unfold CodedPart.cellAt
  cases c.segment with
  | none => simp
  | some g =>
    have hlast : tick ≤ 19 := by omega
    by_cases hcell : 1 ≤ second ∧ second ≤ 56 ∧ 13 ≤ tick
    · obtain ⟨hfirst, hsecond, htick⟩ := hcell
      cases hx : g.stream[7 * (second - 1) + (tick - 13)]? <;>
        simp [hasPhaseCells, cellNumber, hx, hfirst, hsecond, htick, hlast]
    · simp [hasPhaseCells]
      grind

/-- No strobe stands before tick 13, so tick 12 is a guard (R2). -/
theorem CodedPart.cellAt_strobes_late {c : CodedPart} {second tick : Nat} {dir : Direction} (ht : tick < 20)
    (h : (c.cellAt second tick).strobes dir = true) : 13 ≤ tick := by
  obtain ⟨kind, hflip⟩ := PhaseCell.strobes_iff.mp h
  obtain ⟨_, _, _, _, htick, _⟩ := (cellAt_eq_flip_iff ht).mp hflip
  exact htick

/-- The lines of any tick of a draft are those of a symbol and a phase cell, or none is asserted. -/
theorem patternLines_cases (d : Draft) (second tick : Nat) :
    patternLines (some d) second tick = linesReleased
      ∨ ∃ (c : CodedPart) (sym : Symbol), patternLines (some d) second tick =
        ⟨sym.dips tick, (c.cellAt second tick).strobes .advance, (c.cellAt second tick).strobes .retard⟩ := by
  cases hc : d.coded with
  | none => exact .inl (patternLines_of_steady hc second tick)
  | some c =>
    cases hsym : c.row[second]? with
    | none => exact .inl (patternLines_beyond_row hc (List.getElem?_eq_none_iff.mp hsym) tick)
    | some sym => exact .inr ⟨c, sym, patternLines_of_symbol hc hsym tick⟩

/-- At most one strobe is given in a tick (R2). -/
theorem patternLines_one_strobe {d : Draft} {second tick : Nat} (h : (patternLines (some d) second tick).kya = true) :
    (patternLines (some d) second tick).kyr = false := by
  obtain hl | ⟨c, sym, hl⟩ := patternLines_cases d second tick <;> rw [hl] at h ⊢
  · rfl
  · exact PhaseCell.strobes_exclusive h

/-- No strobe is given before tick 13 (R2, R9). -/
theorem patternLines_strobe_late {d : Draft} {second tick : Nat} (ht : tick < 20)
    (h : (patternLines (some d) second tick).kya = true ∨ (patternLines (some d) second tick).kyr = true) :
    13 ≤ tick := by
  obtain hl | ⟨c, sym, hl⟩ := patternLines_cases d second tick <;> rw [hl] at h
  · simp [linesReleased] at h
  · exact h.elim (CodedPart.cellAt_strobes_late ht) (CodedPart.cellAt_strobes_late ht)

/-- KYL is released from tick 12 on (R2, R3). -/
theorem patternLines_no_late_dip (d : Draft) (second : Nat) {tick : Nat} (h : 12 ≤ tick) :
    (patternLines (some d) second tick).kyl = false := by
  obtain hl | ⟨c, sym, hl⟩ := patternLines_cases d second tick <;> rw [hl]
  · rfl
  · exact sym.dips_of_guard_or_later h

/-- Tick 12 is empty: dips are over and strobes have not begun (R2). -/
theorem patternLines_guard (d : Draft) (second : Nat) : patternLines (some d) second 12 = linesReleased := by
  have hdip := patternLines_no_late_dip d second (Nat.le_refl 12)
  have hstrobe := mt (patternLines_strobe_late (d := d) (second := second) (tick := 12) (by decide)) (by decide)
  simp only [not_or, Bool.not_eq_true] at hstrobe
  cases hl : patternLines (some d) second 12
  simp_all [linesReleased]

end Sys2Proof.Machine

open Sys2Proof Sys2Proof.Machine

/-- Settles O25: the lines of a tick are released or those of a symbol beside a phase cell, and the two never meet. -/
theorem patternOfATick : Obligations.PatternOfATick := by
  intro d second tick ht
  refine ⟨rfl, fun h => patternLines_of_steady h second tick, fun c hc h => patternLines_beyond_row hc h tick, ?_,
    patternLines_one_strobe, fun h => patternLines_no_late_dip d second (by have := patternLines_strobe_late ht h; omega),
    fun h => h ▸ patternLines_guard d second⟩
  intro c sym hc hsym
  rw [patternLines_of_symbol hc hsym]
  refine ⟨sym.dips_iff tick, fun dir => ?_⟩
  have hline : (if dir = .advance then (c.cellAt second tick).strobes .advance
      else (c.cellAt second tick).strobes .retard) = (c.cellAt second tick).strobes dir := by
    cases dir <;> rfl
  rw [hline, PhaseCell.strobes_iff]
  simp only [CodedPart.cellAt_eq_flip_iff ht]
  exact exists_comm
end

section
/-! SUPPORT. The symbol row (R4 to R8): its symbols, its length, and where its fields, parity groups and closing seconds stand. -/

namespace Sys2Proof.Machine

/-! ### The symbols of a field and of a parity group -/

@[simp] theorem fieldSymbols_length (width n : Nat) : (fieldSymbols width n).length = width := by
  simp [fieldSymbols, fieldBits]

@[simp] theorem withParity_length (covered : List Symbol) : (withParity covered).length = covered.length + 1 := by
  simp [withParity]

/-- Bit `k` of a field, counted from the most significant (R4). -/
theorem fieldSymbols_getElem? {width k : Nat} (hk : k < width) (n : Nat) :
    (fieldSymbols width n)[k]? = some (bitSymbol (n.testBit (width - 1 - k))) := by
  simp [fieldSymbols, fieldBits, hk]

/-- A symbol that carries one bit (R4). -/
def Symbol.IsBit (sym : Symbol) : Prop := sym = .zero ∨ sym = .one

@[simp] theorem bitSymbol_isBit (b : Bool) : (bitSymbol b).IsBit := by
  cases b <;> simp [Symbol.IsBit, bitSymbol]

theorem fieldSymbols_isBit (width n : Nat) : ∀ sym ∈ fieldSymbols width n, sym.IsBit :=
  List.forall_mem_map.mpr fun b _ => bitSymbol_isBit b

theorem withParity_isBit {covered : List Symbol} (h : ∀ sym ∈ covered, sym.IsBit) :
    ∀ sym ∈ withParity covered, sym.IsBit := by
  intro sym hsym
  obtain hsym | rfl := by simpa [withParity] using hsym
  · exact h sym hsym
  · exact bitSymbol_isBit _

/-- A group with its parity second has an even number of ONE symbols (R5). -/
theorem withParity_count_one (covered : List Symbol) : (withParity covered).count .one % 2 = 0 := by
  have hparity : (parityOf covered :: []).count .one = covered.count .one % 2 := by
    obtain h | h := Nat.mod_two_eq_zero_or_one (covered.count .one) <;> simp [parityOf, bitSymbol, h]
  rw [withParity, List.count_append, hparity]
  omega

theorem closingSymbols_length {n : Nat} (h : 59 ≤ n) : (closingSymbols n).length = n - 58 := by
  simp [closingSymbols]
  omega

section Row
variable (c : CivilFields) (quality : Bool) (annId segNo lastSeg n : Nat)

/-! ### The row's layout (Table 1.2) -/

/-- Seconds 1 to 57 of a row. -/
def bitSeconds (c : CivilFields) (quality : Bool) (annId segNo lastSeg : Nat) : List Symbol :=
  [bitSymbol (c.zone == .summer), bitSymbol c.zoneWarn, bitSymbol c.leapWarn, bitSymbol c.leapKind, bitSymbol quality]
    ++ (withParity (fieldSymbols 6 c.minute) ++ (withParity (fieldSymbols 5 c.hour)
    ++ (withParity (fieldSymbols 9 c.dayOfYear ++ fieldSymbols 7 c.yearOfCentury ++ fieldSymbols 3 c.weekday)
    ++ withParity (fieldSymbols 8 annId ++ fieldSymbols 5 segNo ++ fieldSymbols 5 lastSeg))))

theorem symbolRow_eq :
    symbolRow c quality annId segNo lastSeg n =
      .mark :: (bitSeconds c quality annId segNo lastSeg ++ closingSymbols n) := by
  simp [symbolRow, bitSeconds]

@[simp] theorem bitSeconds_length : (bitSeconds c quality annId segNo lastSeg).length = 57 := by
  simp [bitSeconds]

theorem bitSeconds_isBit : ∀ sym ∈ bitSeconds c quality annId segNo lastSeg, sym.IsBit := by
  have hdate := List.forall_mem_append.mpr ⟨List.forall_mem_append.mpr
    ⟨fieldSymbols_isBit 9 c.dayOfYear, fieldSymbols_isBit 7 c.yearOfCentury⟩, fieldSymbols_isBit 3 c.weekday⟩
  have hann := List.forall_mem_append.mpr ⟨List.forall_mem_append.mpr
    ⟨fieldSymbols_isBit 8 annId, fieldSymbols_isBit 5 segNo⟩, fieldSymbols_isBit 5 lastSeg⟩
  simp only [bitSeconds, List.forall_mem_append (l₁ := [_, _, _, _, _]), List.forall_mem_append (l₁ := withParity _)]
  exact ⟨by simp, withParity_isBit (fieldSymbols_isBit 6 c.minute), withParity_isBit (fieldSymbols_isBit 5 c.hour),
    withParity_isBit hdate, withParity_isBit hann⟩

theorem symbolRow_length (h : 59 ≤ n) : (symbolRow c quality annId segNo lastSeg n).length = n := by
  simp [symbolRow_eq, closingSymbols_length h]
  omega

/-- Seconds 1 to 57 carry one bit each (R7). -/
theorem symbolRow_isBit {k : Nat} (h1 : 1 ≤ k) (h57 : k ≤ 57) :
    ∃ sym, (symbolRow c quality annId segNo lastSeg n)[k]? = some sym ∧ sym.IsBit := by
  obtain ⟨j, rfl⟩ := Nat.exists_eq_add_of_le' h1
  have hj : j < (bitSeconds c quality annId segNo lastSeg).length := by simp; omega
  refine ⟨(bitSeconds c quality annId segNo lastSeg)[j], ?_, bitSeconds_isBit c quality annId segNo lastSeg _ (by simp)⟩
  simp [symbolRow_eq, List.getElem?_append_left hj]

/-- The seconds from 58 on are the closing seconds (R8). -/
theorem symbolRow_closing (j : Nat) :
    (symbolRow c quality annId segNo lastSeg n)[58 + j]? = (closingSymbols n)[j]? := by
  rw [← List.getElem?_drop]
  rfl

/-- The four parity groups, each with its parity second (R5). -/
theorem symbolRow_parity_groups :
    let row := symbolRow c quality annId segNo lastSeg n
    (row.drop 6).take 7 = withParity (fieldSymbols 6 c.minute)
      ∧ (row.drop 13).take 6 = withParity (fieldSymbols 5 c.hour)
      ∧ (row.drop 19).take 20 =
        withParity (fieldSymbols 9 c.dayOfYear ++ fieldSymbols 7 c.yearOfCentury ++ fieldSymbols 3 c.weekday)
      ∧ (row.drop 39).take 19 = withParity (fieldSymbols 8 annId ++ fieldSymbols 5 segNo ++ fieldSymbols 5 lastSeg) :=
  ⟨rfl, rfl, rfl, rfl⟩

/-- Every field of several bits stands in its seconds of Table 1.2. -/
theorem symbolRow_fields :
    ∀ f ∈ [(6, 6, c.minute), (13, 5, c.hour), (19, 9, c.dayOfYear), (28, 7, c.yearOfCentury), (35, 3, c.weekday),
        (39, 8, annId), (47, 5, segNo), (52, 5, lastSeg)],
      ((symbolRow c quality annId segNo lastSeg n).drop f.1).take f.2.1 = fieldSymbols f.2.1 f.2.2 := by
  simp only [List.forall_mem_cons, List.not_mem_nil, false_implies, implies_true, and_true]
  exact ⟨rfl, rfl, rfl, rfl, rfl, rfl, rfl, rfl⟩

end Row
end Sys2Proof.Machine

open Sys2Proof Sys2Proof.Machine

/-- Settles O26, from the layout of the row: each group and field is a stretch of it, and parity is a fact of one group. -/
theorem symbolRowForm : Obligations.SymbolRowForm := by
  intro c quality annId segNo lastSeg n h59 _ row
  obtain ⟨hminute, hhour, hdate, hann⟩ := symbolRow_parity_groups c quality annId segNo lastSeg n
  refine ⟨symbolRow_length c quality annId segNo lastSeg n h59, rfl, ?_, ?_, ?_,
    hminute ▸ withParity_count_one _, hhour ▸ withParity_count_one _, hdate ▸ withParity_count_one _,
    hann ▸ withParity_count_one _, ?_, ?_⟩
  · have hlast : n - 1 = 58 + (n - 59) := by omega
    rw [hlast, symbolRow_closing]
    simp [closingSymbols]
  · intro k h1 h57
    obtain ⟨sym, hk, hbit⟩ := symbolRow_isBit c quality annId segNo lastSeg n h1 h57
    obtain rfl | rfl := hbit
    · exact .inl hk
    · exact .inr hk
  · intro k h58 hk
    obtain ⟨j, rfl⟩ := Nat.exists_eq_add_of_le h58
    have hj : j < n - 59 := by omega
    rw [symbolRow_closing]
    simp [closingSymbols, List.getElem?_append_left, hj]
  · simp only [List.forall_mem_cons, List.not_mem_nil, false_implies, implies_true, and_true]
    exact ⟨rfl, rfl, rfl, rfl, rfl⟩
  · intro f hf k hk
    have hfield := symbolRow_fields c quality annId segNo lastSeg n f hf
    calc row[f.1 + k]? = ((row.drop f.1).take f.2.1)[k]? := by simp [hk]
      _ = some (bitSymbol (f.2.2.testBit (f.2.1 - 1 - k))) := by rw [hfield, fieldSymbols_getElem? hk]
end

section
/-! SUPPORT. The check byte as a division (R11): a register that takes one bit at a time is linear in its start, so that the
check of bytes, the check bit by bit and the remainder of a stream are compared over one byte. -/

namespace Sys2Proof.Machine

/-! ### The bits of bytes, most significant first (R10) -/

theorem byteBits_getElem? (b : Byte) {k : Nat} (hk : k < 8) : (byteBits b)[k]? = some (b.getLsbD (7 - k)) := by
  simp [byteBits, fieldBits, hk, BitVec.getLsbD]

@[simp] theorem byteBits_length (b : Byte) : (byteBits b).length = 8 := by
  simp [byteBits, fieldBits]

theorem flatMap_byteBits_length (bytes : List Byte) : (bytes.flatMap byteBits).length = 8 * bytes.length := by
  induction bytes with
  | nil => rfl
  | cons b rest ih =>
    rw [List.flatMap_cons, List.length_append, byteBits_length, ih, List.length_cons]
    omega

/-- Bit `k` of a stream of bytes is bit `7 - k % 8` of byte `k / 8`. -/
theorem flatMap_byteBits_getElem? (bytes : List Byte) (k : Nat) :
    (bytes.flatMap byteBits)[k]? = bytes[k / 8]?.map fun b => b.getLsbD (7 - k % 8) := by
  induction bytes generalizing k with
  | nil => simp
  | cons b rest ih =>
    rw [List.flatMap_cons]
    obtain hk | hk := Nat.lt_or_ge k 8
    · rw [List.getElem?_append_left (by simpa using hk), byteBits_getElem? b hk]
      simp [Nat.div_eq_of_lt hk, Nat.mod_eq_of_lt hk]
    · obtain ⟨j, rfl⟩ := Nat.exists_eq_add_of_le hk
      have hdiv : (8 + j) / 8 = j / 8 + 1 := by omega
      rw [List.getElem?_append_right (by simp), hdiv, List.getElem?_cons_succ, Nat.add_mod_left]
      simpa using ih j

/-- The bits of bytes, each read at its own place of the stream. -/
theorem range_bits_eq_flatMap_byteBits (bytes : List Byte) :
    (List.range (8 * bytes.length)).map (fun k => (bytes.getD (k / 8) 0).getLsbD (7 - k % 8))
      = bytes.flatMap byteBits := by
  apply List.ext_getElem?
  intro k
  rw [flatMap_byteBits_getElem?]
  obtain hk | hk := Nat.lt_or_ge k (8 * bytes.length)
  · have hbyte : k / 8 < bytes.length := by omega
    simp [hk, hbyte]
  · have hbyte : bytes.length ≤ k / 8 := by omega
    simp [hk, hbyte]

/-! ### Division one bit at a time -/

theorem crc8Shift_xor (x y : Byte) : crc8Shift (x ^^^ y) = crc8Shift x ^^^ crc8Shift y := by
  have hshift := BitVec.shiftLeft_xor_distrib x y 1
  cases hx : x.msb <;> cases hy : y.msb <;> simp only [crc8Shift, BitVec.msb_xor, hx, hy, hshift] <;> grind

/-- The register after some steps of the division in which no bit enters. -/
def crc8Shifts : Nat → Byte → Byte
  | 0, reg => reg
  | n + 1, reg => crc8Shifts n (crc8Shift reg)

theorem crc8Shifts_xor (n : Nat) (x y : Byte) : crc8Shifts n (x ^^^ y) = crc8Shifts n x ^^^ crc8Shifts n y := by
  induction n generalizing x y with
  | zero => rfl
  | succ n ih => simp only [crc8Shifts, crc8Shift_xor, ih]

/-- The register after some bits, when a bit enters as the byte `enter` gives. -/
def divideBits (enter : Bool → Byte) (reg : Byte) (bits : List Bool) : Byte :=
  bits.foldl (fun reg b => crc8Shift reg ^^^ enter b) reg

theorem divideBits_append (enter : Bool → Byte) (reg : Byte) (a b : List Bool) :
    divideBits enter reg (a ++ b) = divideBits enter (divideBits enter reg a) b := List.foldl_append

/-- Where a register starts and what enters it add up. -/
theorem divideBits_from (enter : Bool → Byte) (reg : Byte) (bits : List Bool) :
    divideBits enter reg bits = crc8Shifts bits.length reg ^^^ divideBits enter 0#8 bits := by
  induction bits generalizing reg with
  | nil => exact (BitVec.xor_zero (x := reg)).symm
  | cons b rest ih =>
    have hzero : crc8Shift 0#8 = 0#8 := rfl
    calc divideBits enter reg (b :: rest) = divideBits enter (crc8Shift reg ^^^ enter b) rest := rfl
      _ = crc8Shifts rest.length (crc8Shift reg) ^^^ divideBits enter (enter b) rest := by
        rw [ih, crc8Shifts_xor, BitVec.xor_assoc, ← ih (enter b)]
      _ = crc8Shifts (b :: rest).length reg ^^^ divideBits enter 0#8 (b :: rest) := by
        simp only [divideBits, List.foldl_cons, List.length_cons, crc8Shifts, hzero, BitVec.zero_xor]

/-- A bit of the dividend itself, entering at the low end (R16). -/
def lowEntry (b : Bool) : Byte := if b then 1#8 else 0#8

/-- A bit of the dividend times x^8, entering at the high end (R11). -/
def highEntry (b : Bool) : Byte := if b then 0x07#8 else 0#8

theorem crc8Byte_eq_crc8Shifts (reg b : Byte) : crc8Byte reg b = crc8Shifts 8 (reg ^^^ b) := rfl

theorem divideBits_lowEntry_byteBits (reg b : Byte) :
    divideBits lowEntry reg (byteBits b) = crc8Byte reg 0#8 ^^^ b := by
  have hbyte : ∀ b : Byte, divideBits lowEntry 0#8 (byteBits b) = b := by decide +kernel
  rw [divideBits_from, hbyte, byteBits_length, crc8Byte_eq_crc8Shifts, BitVec.xor_zero]

theorem divideBits_highEntry_byteBits (reg b : Byte) :
    divideBits highEntry reg (byteBits b) = crc8Byte reg b := by
  have hbyte : ∀ b : Byte, divideBits highEntry 0#8 (byteBits b) = crc8Shifts 8 b := by decide +kernel
  rw [divideBits_from, hbyte, byteBits_length, crc8Byte_eq_crc8Shifts, crc8Shifts_xor]

theorem crc8Byte_xor_zero (reg b : Byte) : crc8Byte (reg ^^^ b) 0#8 = crc8Byte reg b := by
  simp [crc8Byte]

/-- The check of bytes, taken one bit at a time (R11). -/
theorem crc8_eq_divideBits (bytes : List Byte) : crc8 bytes = divideBits highEntry 0#8 (bytes.flatMap byteBits) := by
  rw [divideBits, List.foldl_flatMap]
  exact congrArg (fun f => bytes.foldl f 0#8)
    (funext fun reg => funext fun b => (divideBits_highEntry_byteBits reg b).symm)

/-- The highest bit of the register and the bit that enters decide together whether the generator is subtracted. -/
theorem crc8Shift_highEntry (reg : Byte) (b : Bool) :
    crc8Shift reg ^^^ highEntry b = (reg <<< 1) ^^^ (if reg.getLsbD 7 = b then 0#8 else 0x07#8) := by
  have hmsb : reg.msb = reg.getLsbD 7 := BitVec.msb_eq_getLsbD_last reg
  rw [crc8Shift, hmsb]
  cases reg.getLsbD 7 <;> cases b
  case false.false => rfl
  case false.true => rfl
  case true.false => exact BitVec.xor_zero
  case true.true => exact (BitVec.xor_assoc _ _ _).trans (congrArg _ BitVec.xor_self)

/-- The check of any bytes as the division of their bits by 107h (R11). -/
theorem crc8_eq_division (bytes : List Byte) :
    crc8 bytes = ((List.range (8 * bytes.length)).map fun k => (bytes.getD (k / 8) 0).getLsbD (7 - k % 8)).foldl
      (fun (reg : Byte) b => (reg <<< 1) ^^^ (if reg.getLsbD 7 = b then 0#8 else 0x07#8)) 0#8 := by
  rw [range_bits_eq_flatMap_byteBits, crc8_eq_divideBits]
  simp only [divideBits, crc8Shift_highEntry]

/-- Eight more steps turn the remainder of bytes into their check, from any register. -/
theorem crc8Byte_divideBits_lowEntry (reg : Byte) (bytes : List Byte) :
    crc8Byte (divideBits lowEntry reg (bytes.flatMap byteBits)) 0#8 = bytes.foldl crc8Byte (crc8Byte reg 0#8) := by
  induction bytes generalizing reg with
  | nil => rfl
  | cons b rest ih =>
    rw [List.flatMap_cons, divideBits_append, divideBits_lowEntry_byteBits, ih, crc8Byte_xor_zero, List.foldl_cons]

/-- A segment that ends in its own check leaves remainder 0 (R11). -/
theorem bitRemainder_segmentBits (payload : List Byte) : bitRemainder (segmentBits payload (crc8 payload)) = 0#8 := by
  have hsplit : segmentBits payload (crc8 payload) = payload.flatMap byteBits ++ byteBits (crc8 payload) := by
    rw [segmentBits, List.flatMap_append, List.flatMap_singleton]
  have hcheck : crc8Byte (divideBits lowEntry 0#8 (payload.flatMap byteBits)) 0#8 = crc8 payload :=
    crc8Byte_divideBits_lowEntry 0#8 payload
  calc bitRemainder (segmentBits payload (crc8 payload))
      = divideBits lowEntry 0#8 (payload.flatMap byteBits ++ byteBits (crc8 payload)) := congrArg bitRemainder hsplit
    _ = crc8 payload ^^^ crc8 payload := by rw [divideBits_append, divideBits_lowEntry_byteBits, hcheck]
    _ = 0#8 := BitVec.xor_self

end Sys2Proof.Machine
end

section
/-! SUPPORT. The phase coder (R12, R13): what each cell of a coded stream is, told by the bits and by the coder's state before
the cell; the alternation of breaches that follows (R14); and the recovery of the bits (R16). -/

namespace Sys2Proof.Machine

/-! ### The coder's state, read from the cells written so far -/

@[simp] theorem Direction.opposite_opposite (d : Direction) : d.opposite.opposite = d := by cases d <;> rfl

/-- The direction of the most recent flip, `d` standing before the cells (R12). -/
def latestFlip (d : Direction) (cells : List PhaseCell) : Direction :=
  cells.foldl
    (fun d c =>
      match c with
      | .flip e _ => e
      | .hold => d)
    d

/-- Whether the number of normal flips since the most recent breach is odd, FILLs included (R12). -/
def oddFlips (o : Bool) (cells : List PhaseCell) : Bool :=
  cells.foldl
    (fun o c =>
      match c with
      | .flip _ .breach => false
      | .flip _ _ => !o
      | .hold => o)
    o

/-- The direction of the most recent breach, `d` standing before the cells. -/
def latestBreach (d : Direction) (cells : List PhaseCell) : Direction :=
  cells.foldl
    (fun d c =>
      match c with
      | .flip e .breach => e
      | _ => d)
    d

theorem latestFlip_append (d : Direction) (a b : List PhaseCell) :
    latestFlip d (a ++ b) = latestFlip (latestFlip d a) b := List.foldl_append

theorem oddFlips_append (o : Bool) (a b : List PhaseCell) :
    oddFlips o (a ++ b) = oddFlips (oddFlips o a) b := List.foldl_append

theorem latestBreach_append (d : Direction) (a b : List PhaseCell) :
    latestBreach d (a ++ b) = latestBreach (latestBreach d a) b := List.foldl_append

/-! ### The coder, block by block -/

/-- The run of bits that a breach replaces (R13). -/
def fiveZeros : List Bool := [false, false, false, false, false]

/-- The five cells that replace a run: the even form begins with a FILL (R13). -/
def runCells (d : Direction) (odd : Bool) : List PhaseCell :=
  [if odd then .hold else .flip d.opposite .fill, .hold, .hold, .hold, .flip (if odd then d else d.opposite) .breach]

theorem encodePhase_one (d : Direction) (odd : Bool) (rest : List Bool) :
    encodePhase d odd (true :: rest) = .flip d.opposite .normal :: encodePhase d.opposite (!odd) rest := rfl

theorem encodePhase_run (d : Direction) (odd : Bool) (rest : List Bool) :
    encodePhase d odd (fiveZeros ++ rest) =
      runCells d odd ++ encodePhase (if odd then d else d.opposite) false rest := by
  cases odd <;> rfl

theorem encodePhase_zero (d : Direction) (odd : Bool) {rest : List Bool} (h : ¬fiveZeros <+: false :: rest) :
    encodePhase d odd (false :: rest) = .hold :: encodePhase d odd rest := by
  rw [encodePhase]
  rintro tail rfl
  exact h ⟨tail, rfl⟩

/-- Induction along the coder's blocks: a 1 bit, a run of five 0 bits, and a 0 bit that begins no run. -/
theorem coder_induction {motive : Direction → Bool → List Bool → Prop}
    (nil : ∀ d odd, motive d odd [])
    (one : ∀ d odd rest, motive d.opposite (!odd) rest → motive d odd (true :: rest))
    (run : ∀ d odd rest, motive (if odd then d else d.opposite) false rest → motive d odd (fiveZeros ++ rest))
    (zero : ∀ d odd rest, ¬fiveZeros <+: false :: rest → motive d odd rest → motive d odd (false :: rest))
    (d : Direction) (odd : Bool) (bits : List Bool) : motive d odd bits := by
  induction d, odd, bits using encodePhase.induct with
  | case1 d odd => exact nil d odd
  | case2 d odd rest ih => exact one d odd rest ih
  | case3 d rest ih => exact run d true rest ih
  | case4 d odd rest hodd ih =>
    obtain rfl : odd = false := by simpa using hodd
    exact run d false rest ih
  | case5 d odd rest hrun ih =>
    refine zero d odd rest ?_ ih
    rintro ⟨tail, htail⟩
    exact hrun tail (List.cons.inj htail).2.symm

theorem encodePhase_length (d : Direction) (odd : Bool) (bits : List Bool) :
    (encodePhase d odd bits).length = bits.length := by
  induction d, odd, bits using coder_induction with
  | nil => rfl
  | one d odd rest ih => simp [encodePhase_one, ih]
  | run d odd rest ih =>
    rw [encodePhase_run, List.length_append, ih, List.length_append]
    rfl
  | zero d odd rest hrun ih => simp [encodePhase_zero d odd hrun, ih]

/-! ### What a cell is -/

/-- A replaced run stands in the cells from `n` on: five 0 bits, the form that the coder's state asks for, and before it a flip
or nothing (R13). -/
structure RunAt (d : Direction) (odd : Bool) (bits : List Bool) (x : List PhaseCell) (n : Nat) : Prop where
  zeros : fiveZeros <+: bits.drop n
  cells : runCells (latestFlip d (x.take n)) (oddFlips odd (x.take n)) <+: x.drop n
  start : (x.take n).getLast? ≠ some .hold

/-- What cell `i` is: the flip of a 1 bit, the hold of a 0 bit that begins no run, or a cell of a replaced run. -/
inductive CellForm (d : Direction) (odd : Bool) (bits : List Bool) (x : List PhaseCell) (i : Nat) : Prop where
  | one (bit : bits[i]? = some true) (cell : x[i]? = some (.flip (latestFlip d (x.take i)).opposite .normal))
  | zero (bit : bits[i]? = some false) (cell : x[i]? = some .hold) (noRun : ¬fiveZeros <+: bits.drop i)
  | run (n : Nat) (runAt : RunAt d odd bits x n) (first : n ≤ i) (last : i < n + 5)

theorem RunAt.append {d : Direction} {odd : Bool} {bits b : List Bool} {x a : List PhaseCell} {n : Nat}
    (h : RunAt (latestFlip d a) (oddFlips odd a) bits x n) (hlen : b.length = a.length)
    (hstart : a.getLast? = some .hold → ¬fiveZeros <+: bits) :
    RunAt d odd (b ++ bits) (a ++ x) (a.length + n) where
  zeros := by
    rw [← hlen, List.drop_length_add_append]
    exact h.zeros
  cells := by
    rw [List.take_length_add_append, List.drop_length_add_append, latestFlip_append, oddFlips_append]
    exact h.cells
  start := by
    rw [List.take_length_add_append, List.getLast?_append]
    have hzeros := h.zeros
    have hlast := h.start
    cases hx : (x.take n).getLast? with
    | some c => simpa [hx] using hlast
    | none =>
      have hn : n = 0 ∨ x = [] := by simpa using hx
      obtain rfl | rfl := hn
      · simpa using fun ha => hstart ha hzeros
      · have := h.cells
        simp [runCells] at this

theorem CellForm.append {d : Direction} {odd : Bool} {bits b : List Bool} {x a : List PhaseCell} {i : Nat}
    (h : CellForm (latestFlip d a) (oddFlips odd a) bits x i) (hlen : b.length = a.length)
    (hstart : a.getLast? = some .hold → ¬fiveZeros <+: bits) :
    CellForm d odd (b ++ bits) (a ++ x) (a.length + i) := by
  have hbit : (b ++ bits)[a.length + i]? = bits[i]? := by simp [← hlen, List.getElem?_append_right]
  have hcell : (a ++ x)[a.length + i]? = x[i]? := by simp [List.getElem?_append_right]
  cases h with
  | one bit cell =>
    refine .one (hbit.trans bit) (hcell.trans ?_)
    rw [List.take_length_add_append, latestFlip_append]
    exact cell
  | zero bit cell noRun =>
    refine .zero (hbit.trans bit) (hcell.trans cell) ?_
    rw [← hlen, List.drop_length_add_append]
    exact noRun
  | run n runAt first last => exact .run (a.length + n) (runAt.append hlen hstart) (by omega) (by omega)

/-- The coder writes each cell in one of the three forms (R12, R13). -/
theorem encodePhase_cellForm (d : Direction) (odd : Bool) (bits : List Bool) :
    ∀ i < bits.length, CellForm d odd bits (encodePhase d odd bits) i := by
  induction d, odd, bits using coder_induction with
  | nil d odd => simp
  | one d odd rest ih =>
    rintro (_ | i) hi
    · exact .one rfl rfl
    · rw [Nat.add_comm]
      exact (ih i (by simpa using hi)).append (b := [true]) (a := [.flip d.opposite .normal]) rfl (by simp)
  | zero d odd rest hrun ih =>
    rw [encodePhase_zero d odd hrun]
    rintro (_ | i) hi
    · exact .zero rfl rfl hrun
    · rw [Nat.add_comm]
      refine (ih i (by simpa using hi)).append (b := [false]) (a := [.hold]) rfl fun _ hrest => hrun ?_
      obtain ⟨tail, rfl⟩ := hrest
      exact ⟨false :: tail, rfl⟩
  | run d odd rest ih =>
    rw [encodePhase_run]
    intro i hi
    obtain hfirst | hlater := Nat.lt_or_ge i 5
    · exact .run 0 ⟨⟨_, rfl⟩, ⟨_, rfl⟩, by simp⟩ (Nat.zero_le i) (by omega)
    · obtain ⟨j, rfl⟩ := Nat.exists_eq_add_of_le hlater
      have hj : j < rest.length := by simp [fiveZeros] at hi; omega
      have hlatest : latestFlip d (runCells d odd) = if odd then d else d.opposite := rfl
      have hodd : oddFlips odd (runCells d odd) = false := rfl
      exact (hlatest ▸ hodd ▸ ih j hj : CellForm _ _ _ _ _).append (b := fiveZeros) (a := runCells d odd) rfl
        (by simp [runCells])

/-! ### A replaced run, cell by cell -/

theorem getElem?_of_isPrefix_drop {α : Type} {l m : List α} {n k : Nat} (h : l <+: m.drop n) (hk : k < l.length) :
    m[n + k]? = l[k]? := by
  obtain ⟨tail, htail⟩ := h
  rw [← List.getElem?_drop, ← htail, List.getElem?_append_left hk]

theorem take_add_of_isPrefix_drop {α : Type} {l m : List α} {n k : Nat} (h : l <+: m.drop n) (hk : k ≤ l.length) :
    m.take (n + k) = m.take n ++ l.take k := by
  obtain ⟨tail, htail⟩ := h
  rw [List.take_add, ← htail, List.take_append_of_le_length hk]

section Run
variable {d : Direction} {odd : Bool} {bits : List Bool} {x : List PhaseCell} {n : Nat}

theorem RunAt.bit (h : RunAt d odd bits x n) {k : Nat} (hk : k < 5) : bits[n + k]? = some false := by
  rw [getElem?_of_isPrefix_drop h.zeros hk]
  exact List.getElem?_replicate_of_lt (n := 5) hk

theorem RunAt.cell (h : RunAt d odd bits x n) {k : Nat} (hk : k < 5) :
    x[n + k]? = (runCells (latestFlip d (x.take n)) (oddFlips odd (x.take n)))[k]? :=
  getElem?_of_isPrefix_drop h.cells hk

/-- Nothing but the first and the last cell of a run can be a flip: a FILL in the even form, and the breach (R13). -/
theorem RunAt.flip (h : RunAt d odd bits x n) {k : Nat} (hk : k < 5) {e : Direction} {kind : FlipKind}
    (hflip : x[n + k]? = some (.flip e kind)) :
    (k = 0 ∧ kind = .fill ∧ oddFlips odd (x.take n) = false ∧ e = (latestFlip d (x.take n)).opposite)
      ∨ (k = 4 ∧ kind = .breach) := by
  rw [h.cell hk] at hflip
  obtain rfl | rfl | rfl | rfl | rfl : k = 0 ∨ k = 1 ∨ k = 2 ∨ k = 3 ∨ k = 4 := by omega
  · cases ho : oddFlips odd (x.take n) <;> simp_all [runCells]
  · simp [runCells] at hflip
  · simp [runCells] at hflip
  · simp [runCells] at hflip
  · simp_all [runCells]

/-- The breach repeats the most recent flip, and the number of normal flips before it is odd (R13, R14). -/
theorem RunAt.breach (h : RunAt d odd bits x n) :
    x[n + 4]? = some (.flip (latestFlip d (x.take (n + 4))) .breach) ∧ oddFlips odd (x.take (n + 4)) = true := by
  rw [h.cell (by omega), take_add_of_isPrefix_drop h.cells (by simp [runCells]), latestFlip_append, oddFlips_append]
  cases oddFlips odd (x.take n) <;> simp [runCells, latestFlip, oddFlips]

/-- A run begins right after a flip or at cell 0 (R13). -/
theorem RunAt.after_flip (h : RunAt d odd bits x n) : n = 0 ∨ x[n - 1]? ≠ some .hold := by
  have hstart := h.start
  rw [List.getLast?_take] at hstart
  obtain rfl | hn := Nat.eq_zero_or_pos n
  · exact .inl rfl
  · right
    intro hhold
    simp [hhold, Nat.ne_of_gt hn] at hstart

end Run

/-! ### The cells of a coded stream -/

/-- The stream `x` carries `bits`, the coder starting from `d` and `odd`. -/
structure Codes (d : Direction) (odd : Bool) (bits : List Bool) (x : List PhaseCell) : Prop where
  length : x.length = bits.length
  form : ∀ i < bits.length, CellForm d odd bits x i

theorem encodePhase_codes (d : Direction) (odd : Bool) (bits : List Bool) :
    Codes d odd bits (encodePhase d odd bits) :=
  ⟨encodePhase_length d odd bits, encodePhase_cellForm d odd bits⟩

section Stream
variable {d : Direction} {odd : Bool} {bits : List Bool} {x : List PhaseCell}

theorem Codes.form_of_cell (h : Codes d odd bits x) {i : Nat} {c : PhaseCell} (hc : x[i]? = some c) :
    CellForm d odd bits x i := by
  obtain ⟨hi, _⟩ := List.getElem?_eq_some_iff.mp hc
  exact h.form i (h.length ▸ hi)

/-- The normal flips are the 1 bits, each opposite to the most recent flip (R12). -/
theorem Codes.normal_iff (h : Codes d odd bits x) (i : Nat) (e : Direction) :
    x[i]? = some (.flip e .normal) ↔ bits[i]? = some true ∧ e = (latestFlip d (x.take i)).opposite := by
  constructor
  · intro hflip
    cases h.form_of_cell hflip with
    | one bit cell => simp_all
    | zero bit cell noRun => simp_all
    | run n runAt first last =>
      obtain ⟨k, rfl⟩ := Nat.exists_eq_add_of_le first
      simpa using runAt.flip (by omega) hflip
  · rintro ⟨hbit, rfl⟩
    obtain ⟨hi, _⟩ := List.getElem?_eq_some_iff.mp hbit
    cases h.form i hi with
    | one bit cell => exact cell
    | zero bit cell noRun => simp_all
    | run n runAt first last =>
      obtain ⟨k, rfl⟩ := Nat.exists_eq_add_of_le first
      simp [runAt.bit (k := k) (by omega)] at hbit

/-- A breach ends a replaced run (R13). -/
theorem Codes.run_of_breach (h : Codes d odd bits x) {i : Nat} {e : Direction} (hb : x[i]? = some (.flip e .breach)) :
    ∃ n, i = n + 4 ∧ RunAt d odd bits x n := by
  cases h.form_of_cell hb with
  | one bit cell => simp_all
  | zero bit cell noRun => simp_all
  | run n runAt first last =>
    obtain ⟨k, rfl⟩ := Nat.exists_eq_add_of_le first
    obtain ⟨_, hkind, _⟩ | ⟨rfl, _⟩ := runAt.flip (by omega) hb
    · cases hkind
    · exact ⟨n, rfl, runAt⟩

/-- The form of a breach's run, in the cells counted back from the breach (R13). -/
theorem Codes.breach_run (h : Codes d odd bits x) {i : Nat} {e : Direction} (hb : x[i]? = some (.flip e .breach)) :
    4 ≤ i
      ∧ (∀ j < 5, bits[i - j]? = some false)
      ∧ (i = 4 ∨ x[i - 5]? ≠ some .hold)
      ∧ x[i - 4]? =
          (if oddFlips odd (x.take (i - 4)) then some .hold
          else some (.flip (latestFlip d (x.take (i - 4))).opposite .fill))
      ∧ x[i - 3]? = some .hold ∧ x[i - 2]? = some .hold ∧ x[i - 1]? = some .hold := by
  obtain ⟨n, rfl, hrun⟩ := h.run_of_breach hb
  refine ⟨by omega, fun j hj => ?_, ?_, ?_, hrun.cell (k := 1) (by omega), hrun.cell (k := 2) (by omega),
    hrun.cell (k := 3) (by omega)⟩
  · obtain ⟨k, hk⟩ : ∃ k, n + 4 - j = n + k := ⟨4 - j, by omega⟩
    rw [hk]
    exact hrun.bit (by omega)
  · exact hrun.after_flip.imp (fun hn => by omega) id
  · rw [Nat.add_sub_cancel, ← apply_ite]
    exact hrun.cell (k := 0) (by omega)

/-- A FILL begins a replaced run of the even form (R13). -/
theorem Codes.run_of_fill (h : Codes d odd bits x) {i : Nat} {e : Direction} (hf : x[i]? = some (.flip e .fill)) :
    RunAt d odd bits x i ∧ oddFlips odd (x.take i) = false ∧ e = (latestFlip d (x.take i)).opposite := by
  cases h.form_of_cell hf with
  | one bit cell => simp_all
  | zero bit cell noRun => simp_all
  | run n runAt first last =>
    obtain ⟨k, rfl⟩ := Nat.exists_eq_add_of_le first
    obtain ⟨rfl, _, hodd, hdir⟩ | ⟨_, hkind⟩ := runAt.flip (by omega) hf
    · exact ⟨runAt, hodd, hdir⟩
    · cases hkind

/-- A breach repeats the most recent flip after an odd number of normal flips (R13, R14). -/
theorem Codes.breach_state (h : Codes d odd bits x) {i : Nat} {e : Direction} (hb : x[i]? = some (.flip e .breach)) :
    e = latestFlip d (x.take i) ∧ oddFlips odd (x.take i) = true := by
  obtain ⟨n, rfl, hrun⟩ := h.run_of_breach hb
  obtain ⟨hcell, hodd⟩ := hrun.breach
  simp_all

/-- A FILL and the breach of its run have one direction (R13). -/
theorem Codes.breach_of_fill (h : Codes d odd bits x) {i : Nat} {e : Direction} (hf : x[i]? = some (.flip e .fill)) :
    x[i + 4]? = some (.flip e .breach) := by
  obtain ⟨hrun, hodd, rfl⟩ := h.run_of_fill hf
  rw [hrun.cell (by omega), hodd]
  rfl

/-- None of five holds lies in a replaced run, which would end in its breach among them or begin after one of them; so each is
the hold of a 0 bit that begins no run. -/
theorem Codes.zero_of_holds (h : Codes d odd bits x) {i : Nat} (hholds : ∀ j < 5, x[i + j]? = some .hold) {j : Nat}
    (hj : j < 5) : bits[i + j]? = some false ∧ ¬fiveZeros <+: bits.drop (i + j) := by
  cases h.form_of_cell (hholds j hj) with
  | one bit cell => simp [hholds j hj] at cell
  | zero bit cell noRun => exact ⟨bit, noRun⟩
  | run n runAt first last =>
    have hafter : i + 5 ≤ n + 4 := by
      refine Nat.le_of_not_lt fun hbefore => ?_
      obtain ⟨k, hk⟩ : ∃ k, n + 4 = i + k := ⟨n + 4 - i, by omega⟩
      have hbreach := runAt.breach.1
      simp [hk, hholds k (by omega)] at hbreach
    obtain ⟨k, hk⟩ : ∃ k, n - 1 = i + k := ⟨n - 1 - i, by omega⟩
    exact (runAt.after_flip.resolve_left (by omega) (hk ▸ hholds k (by omega))).elim

/-- No five cells in a row are holds (R14). -/
theorem Codes.not_five_holds (h : Codes d odd bits x) (i : Nat) : ¬∀ j < 5, x[i + j]? = some .hold := by
  intro hholds
  have hzeros : (bits.drop i).take 5 = fiveZeros := by
    refine List.ext_getElem? fun j => ?_
    obtain hj | hj := Nat.lt_or_ge j 5
    · rw [List.getElem?_take_of_lt hj, List.getElem?_drop, (h.zero_of_holds hholds hj).1]
      exact (List.getElem?_replicate_of_lt (n := 5) hj).symm
    · rw [List.getElem?_take_eq_none hj, List.getElem?_eq_none hj]
  exact (h.zero_of_holds hholds (j := 0) (by omega)).2 ⟨_, hzeros ▸ List.take_append_drop 5 _⟩

end Stream

/-! ### Breaches alternate (R14) -/

section Breaches
variable {bits : List Bool} {x : List PhaseCell}

/-- A flip that is no breach goes to the other direction (R12, R13). -/
theorem Codes.turns {d : Direction} {odd : Bool} (h : Codes d odd bits x) {i : Nat} {e : Direction} {kind : FlipKind}
    (hflip : x[i]? = some (.flip e kind)) (hkind : kind ≠ .breach) : e = (latestFlip d (x.take i)).opposite := by
  cases kind with
  | normal => exact ((h.normal_iff i e).mp hflip).2
  | fill => exact (h.run_of_fill hflip).2.2
  | breach => exact absurd rfl hkind

/-- The most recent flip is opposite to the most recent breach exactly after an odd number of normal flips; RETARD stands for
the breach before cell 0. -/
theorem Codes.latestFlip_eq (h : Codes .retard false bits x) (i : Nat) :
    latestFlip .retard (x.take i) =
      if oddFlips false (x.take i) then (latestBreach .retard (x.take i)).opposite
      else latestBreach .retard (x.take i) := by
  induction i with
  | zero => rfl
  | succ i ih =>
    rw [List.take_add_one, latestFlip_append, oddFlips_append, latestBreach_append]
    cases hc : x[i]? with
    | none => exact ih
    | some c =>
      cases c with
      | hold => exact ih
      | flip e kind =>
        by_cases hkind : kind = .breach
        · subst hkind
          rfl
        · have hturn := h.turns hc hkind
          rw [ih] at hturn
          cases kind <;> cases ho : oddFlips false (x.take i) <;>
            simp_all [latestFlip, oddFlips, latestBreach]

theorem latestBreach_take_succ {d : Direction} {i : Nat} {e : Direction} (hb : x[i]? = some (.flip e .breach)) :
    latestBreach d (x.take (i + 1)) = e := by
  rw [List.take_add_one, latestBreach_append, hb]
  rfl

theorem latestBreach_unchanged {d : Direction} {j i : Nat} (hji : j ≤ i)
    (hno : ∀ k e, j ≤ k → k < i → x[k]? ≠ some (.flip e .breach)) :
    latestBreach d (x.take i) = latestBreach d (x.take j) := by
  induction hji with
  | refl => rfl
  | @step i hji ih =>
    rw [List.take_add_one, latestBreach_append, ih fun k e hk hki => hno k e hk (by omega)]
    cases hc : x[i]? with
    | none => rfl
    | some c =>
      cases c with
      | hold => rfl
      | flip e kind =>
        cases kind with
        | normal => rfl
        | fill => rfl
        | breach => exact absurd hc (hno i e hji (by omega))

/-- A breach is opposite to the breach before it (R14). -/
theorem Codes.breach_alternates (h : Codes .retard false bits x) {i : Nat} {e : Direction}
    (hb : x[i]? = some (.flip e .breach)) : e = (latestBreach .retard (x.take i)).opposite := by
  obtain ⟨hdir, hodd⟩ := h.breach_state hb
  rw [hdir, h.latestFlip_eq, if_pos hodd]

end Breaches

/-! ### Recovery (R16) -/

theorem recoverBits_hold (ref : Direction) (acc : List Bool) (rest : List CellReading) :
    recoverBits ref acc (.hold :: rest) = recoverBits ref (false :: acc) rest := rfl

/-- A strobe opposite to the reference is a 1 bit for the moment. -/
theorem recoverBits_turn (ref : Direction) (kind : FlipKind) (acc : List Bool) (rest : List CellReading) :
    recoverBits ref acc (PhaseCell.reading (.flip ref.opposite kind) :: rest) =
      recoverBits ref.opposite (true :: acc) rest := by
  cases ref <;> rfl

/-- A strobe that repeats the reference sets its own cell and the four before it to 0. -/
theorem recoverBits_repeat (ref : Direction) (kind : FlipKind) (a b c e : Bool) (acc : List Bool)
    (rest : List CellReading) :
    recoverBits ref (a :: b :: c :: e :: acc) (PhaseCell.reading (.flip ref kind) :: rest) =
      recoverBits ref (fiveZeros ++ acc) rest := by
  cases ref <;> rfl

theorem recoverBits_run (d : Direction) (odd : Bool) (acc : List Bool) (rest : List CellReading) :
    recoverBits d acc ((runCells d odd).map PhaseCell.reading ++ rest) =
      recoverBits (if odd then d else d.opposite) (fiveZeros ++ acc) rest := by
  cases odd with
  | true => exact recoverBits_repeat d .breach false false false false acc rest
  | false =>
    exact (recoverBits_turn d .fill acc _).trans (recoverBits_repeat d.opposite .breach false false false true acc rest)

/-- The receiver undoes the coder from any state that both share. -/
theorem recoverBits_encodePhase (d : Direction) (odd : Bool) (bits acc : List Bool) :
    recoverBits d acc ((encodePhase d odd bits).map PhaseCell.reading) = some (acc.reverse ++ bits) := by
  induction d, odd, bits using coder_induction generalizing acc with
  | nil d odd => simp [encodePhase, recoverBits]
  | one d odd rest ih => simp [encodePhase_one, recoverBits_turn, ih]
  | run d odd rest ih =>
    rw [encodePhase_run, List.map_append, recoverBits_run, ih]
    simp [fiveZeros]
  | zero d odd rest hrun ih =>
    rw [encodePhase_zero d odd hrun, List.map_cons]
    exact (recoverBits_hold d acc _).trans ((ih (false :: acc)).trans (by simp))

theorem recoverStream_phaseStream (payload : List Byte) (check : Byte) :
    recoverStream ((phaseStream payload check).map PhaseCell.reading) = some (segmentBits payload check) :=
  recoverBits_encodePhase .retard false (segmentBits payload check) []

end Sys2Proof.Machine

open Sys2Proof Sys2Proof.Machine

/-- Settles O27: the coder writes each cell in one of three forms (`encodePhase_codes`), from which its rules are read off;
the recovery undoes it block by block, and the check is a division that is linear in its register. -/
theorem phaseStreamIsRecovered : Obligations.PhaseStreamIsRecovered := by
  refine ⟨crc8_eq_division, ?_⟩
  intro payload check x bits cells latest odd breach
  have hx : Codes .retard false bits x := encodePhase_codes .retard false bits
  have hrecover : recoverStream cells = some bits := recoverStream_phaseStream payload check
  refine ⟨?_, flatMap_byteBits_getElem? (payload ++ [check]), hx.normal_iff, ?_, ?_, hx.not_five_holds, ?_, hrecover, ?_⟩
  · rw [hx.length]
    exact (flatMap_byteBits_length _).trans (by simp)
  · intro i d hb
    obtain ⟨h4, hrun⟩ := hx.breach_run hb
    exact ⟨h4, (hx.breach_state hb).1, hrun⟩
  · exact fun i d hf => hx.breach_of_fill hf
  · intro i d hb
    have halt := hx.breach_alternates hb
    refine ⟨(hx.breach_state hb).2, fun hfirst => ?_, fun j e hji hbj hnone => ?_⟩
    · rw [halt, latestBreach_unchanged (Nat.zero_le i) fun k f _ hk => hfirst k f hk]
      rfl
    · rw [halt, latestBreach_unchanged hji fun k f hjk hki => hnone k f hjk hki, latestBreach_take_succ hbj]
  · rintro rfl
    have hremainder : bitRemainder bits = 0#8 := bitRemainder_segmentBits payload
    simp [segmentCheckGood, hrecover, hremainder]
end

section
/-! SUPPORT. Settling the zone table and the entry to LOCKED from ACQUIRING (R26, R46, R131), part by part. -/

namespace Sys2Proof.Machine

theorem State.raise_latches (e : Event) (s : State) : (s.raise e).latched e = true := by
  simp only [State.raise_latched, decide_true, Bool.true_or]

/-! ### Settling the zone table (R46) -/

@[simp] theorem settleZone_trk (c : Nat) (before : Option ZoneEntry) (s : State) : (settleZone c before s).trk = s.trk := by
  rw [settleZone_frame]

theorem settleZone_zone (c : Nat) (before : Option ZoneEntry) (s : State) :
    (settleZone c before s).zone = settledTable c s.zone := State.raiseIf_zone _ _ _

theorem settleZone_keeps_latched (c : Nat) (before : Option ZoneEntry) (e : Event) (s : State)
    (h : s.latched e = true) : (settleZone c before s).latched e = true :=
  State.raiseIf_keeps_latched _ _ _ _ h

/-- What a settling starts from is read in the zone table and the latch of ZONE_APPLIED alone. -/
theorem State.settlesTo_of_start {c : Nat} {before : Option ZoneEntry} {s s' t : State} (h : s'.settlesTo c before t)
    (hz : s'.zone = s.zone) (hl : s'.latched .zoneApplied = s.latched .zoneApplied) : s.settlesTo c before t := by
  unfold State.settlesTo at *
  rwa [← hz, ← hl]

/-! ### The entry to LOCKED (R26) -/

/-- The tracker on its entry to LOCKED from ACQUIRING (R26). -/
def Tracker.lockedAt (sec : RefSecond) (time : UtcTime) (t : Tracker) : Tracker :=
  { t with
    refState := .locked
    countValid := true
    minute := time.toCount.minute
    second := time.toCount.second
    anchor := sec.instant
    marks := relabelLast time.toCount t.marks
    plan := t.planFrom sec.plan
    badRun := 0
    goodRun := 0
    holdover := 0 }

section Lock
variable (sec : RefSecond) (time : UtcTime) (s : State)

theorem lockFromAcquiring_eq :
    lockFromAcquiring sec time s =
      (openUnobserved time.toCount
        (settleZone time.toCount.minute none { s with trk := s.trk.lockedAt sec time })).raise .refLocked := rfl

theorem lockFromAcquiring_trk :
    (lockFromAcquiring sec time s).trk = s.trk.lockedAt sec time := settleZone_trk _ _ _

theorem lockFromAcquiring_zone :
    (lockFromAcquiring sec time s).zone = settledTable time.toCount.minute s.zone := settleZone_zone _ _ _

theorem lockFromAcquiring_key : (lockFromAcquiring sec time s).key = s.key := by
  rw [lockFromAcquiring_frame]

theorem lockFromAcquiring_openMinute :
    (lockFromAcquiring sec time s).dec.openMinute =
      some ⟨time.toCount.minute, List.replicate (time.toCount.second + 1) unobservedEntry, [], 0⟩ := rfl

theorem lockFromAcquiring_latched : (lockFromAcquiring sec time s).latched .refLocked = true :=
  State.raise_latches _ _

theorem lockFromAcquiring_settlesTo (h : s.zoneOk) :
    s.settlesTo time.toCount.minute none (lockFromAcquiring sec time s) := by
  rw [lockFromAcquiring_eq]
  refine State.settlesTo_of_start (s' := { s with trk := s.trk.lockedAt sec time }) ?_ rfl rfl
  exact State.settlesTo_of_eq (settleZone_settlesTo _ none _ h) rfl (State.raise_raises (f := .zoneApplied) _ nofun)

end Lock

/-- The mark of the last own edge takes the new time (R30). -/
theorem relabelLast_eq (c : CountTime) (marks : List EdgeMark) :
    relabelLast c marks =
      match marks with
      | [] => []
      | k :: rest => { k with time := some c } :: rest := by
  cases marks <;> rfl

end Sys2Proof.Machine
end

section
/-! SUPPORT. The reference port (R20 to R22, R24): what a REFP edge, a REFD character and the end of a message answer, case by
case. -/

namespace Sys2Proof.Machine

/-- An event that leaves the state as it is leaves it so whether or not the unit runs. -/
theorem whenRunning_of_fixed (f : State → State) (s : State) (h : f s = s) : whenRunning f s = s := by
  unfold whenRunning
  split
  · exact h
  · rfl

/-! ### The rows of the reference port -/

theorem exec_refpEdge (t : Instant) (s : State) : exec (.refpEdge t) s = .next (whenRunning (refpEdge t) s) := rfl

theorem exec_refdCharacter (b : Byte) (s : State) :
    exec (.refdCharacter b) s = .next (whenRunning (refdCharacter b) s) := rfl

theorem exec_referenceMessage (b : Byte) (s : State) :
    exec (.referenceMessage b) s = .next (whenRunning (refdCharacter b) s) := rfl

theorem exec_refdFramingError (s : State) : exec .refdFramingError s = .next (whenRunning (endMessage none) s) := rfl

theorem exec_messageWindowExpiry (s : State) :
    exec .messageWindowExpiry s = .next (whenRunning (endMessage none) s) := rfl

theorem exec_notionalReferenceSecond (s : State) :
    exec .notionalReferenceSecond s = .next (whenRunning notionalSecond s) := rfl

/-! ### The end of a message (R20) -/

/-- The state with no message open. -/
def State.messageClosed (s : State) : State := { s with trk := { s.trk with openMsg := none } }

theorem State.messageClosed_of_closed (s : State) (h : s.trk.openMsg = none) : s.messageClosed = s := by
  unfold State.messageClosed
  rw [← h]

theorem endMessage_of_closed (msg : Option RefMessage) (s : State) (h : s.trk.openMsg = none) :
    endMessage msg s = s := by
  simp [endMessage, h]

theorem endMessage_of_open (msg : Option RefMessage) (o : OpenMessage) (s : State) (h : s.trk.openMsg = some o) :
    endMessage msg s = judge (s.trk.refSecond o.edge msg) (s.trk.verdict o.edge msg) s.messageClosed := by
  simp only [endMessage, h]
  rfl

/-! ### What a judgement leaves of the open message -/

theorem judgeAcquiring_openMsg (sec : RefSecond) (v : Verdict) (s : State) :
    (judgeAcquiring sec v s).trk.openMsg = s.trk.openMsg := by
  unfold judgeAcquiring
  split
  · rfl
  · rfl
  · split
    · rw [lockFromAcquiring_trk]
      rfl
    · rfl

theorem judgeLocked_openMsg (sec : RefSecond) (v : Verdict) (s : State) :
    (judgeLocked sec v s).trk.openMsg = s.trk.openMsg := by
  unfold judgeLocked
  split
  · rfl
  · rfl
  · split <;> rfl

theorem judgeRunningAlone_openMsg (sec : RefSecond) (v : Verdict) (s : State) :
    (judgeRunningAlone sec v s).trk.openMsg = s.trk.openMsg := by
  unfold judgeRunningAlone
  split
  · rfl
  · rfl
  · split <;> rfl

theorem judgeStepping_openMsg (sec : RefSecond) (v : Verdict) (s : State) :
    (judgeStepping sec v s).trk.openMsg = s.trk.openMsg := by
  unfold judgeStepping
  split
  · rfl
  · dsimp only
    split <;> rfl
  · rfl

theorem judge_openMsg (sec : RefSecond) (v : Verdict) (s : State) : (judge sec v s).trk.openMsg = s.trk.openMsg := by
  unfold judge
  rw [proofReferenceCheck_eq]
  cases s.trk.refState with
  | acquiring => exact judgeAcquiring_openMsg sec v _
  | locked => exact judgeLocked_openMsg sec v _
  | holdover => exact judgeRunningAlone_openMsg sec v _
  | stepping => exact judgeStepping_openMsg sec v _
  | expired => exact judgeRunningAlone_openMsg sec v _

/-- No message is open after one has ended (R20). -/
theorem endMessage_openMsg (msg : Option RefMessage) (s : State) : (endMessage msg s).trk.openMsg = none := by
  cases ho : s.trk.openMsg with
  | none => rw [endMessage_of_closed msg s ho, ho]
  | some o =>
    rw [endMessage_of_open msg o s ho, judge_openMsg]
    rfl

theorem endMessage_running (msg : Option RefMessage) (s : State) : (endMessage msg s).running = s.running := by
  rw [endMessage_frame]
  rfl

/-! ### A REFP edge (R22, R24) -/

/-- A REFP edge acts on the state that the end of the open message leaves (log 31). -/
theorem refpEdge_endMessage (t : Instant) (s : State) : refpEdge t (endMessage none s) = refpEdge t s := by
  unfold refpEdge
  rw [endMessage_of_closed none (endMessage none s) (endMessage_openMsg none s)]

/-- Where an edge falls in LOCKED, and what it steers there (R24). -/
theorem steerByRefp_eq (t : Instant) (s : State) :
    steerByRefp t s =
      { s with
        trk :=
          if s.trk.refState = .locked then
            if s.trk.accepted = none ∧ s.trk.anchor + 995000 ≤ t ∧ t < s.trk.anchor + 1000000 then
              { s.trk with accepted := some t }
            else if s.trk.byOscillator = true ∧ s.trk.lastEdge ≤ t ∧ t ≤ s.trk.lastEdge + 5000 then
              { s.trk with anchor := t }
            else s.trk
          else s.trk } := by
  by_cases hlocked : s.trk.refState = .locked
  · by_cases hnext : s.trk.accepted = none ∧ s.trk.anchor + 995000 ≤ t ∧ t < s.trk.anchor + 1000000
    · simp [steerByRefp, ownSecond, ms, hlocked, hnext]
    · by_cases hafter : s.trk.byOscillator = true ∧ s.trk.lastEdge ≤ t ∧ t ≤ s.trk.lastEdge + 5000 <;>
        simp [steerByRefp, ownSecond, ms, hlocked, hnext, hafter]
  · simp [steerByRefp, hlocked]

/-! ### A REFD character (R20, R21) -/

theorem refdCharacter_of_closed (b : Byte) (s : State) (h : s.trk.openMsg = none) : refdCharacter b s = s := by
  simp [refdCharacter, h]

theorem refdCharacter_of_few (b : Byte) (o : OpenMessage) (s : State) (ho : s.trk.openMsg = some o)
    (h : o.chars.length < 8) :
    refdCharacter b s =
      { s with trk := { s.trk with openMsg := some { o with chars := o.chars ++ [b] } } } := by
  have hfew : ¬9 ≤ (o.chars ++ [b]).length := by simp; omega
  simp only [refdCharacter, ho, hfew, if_false]

/-- The ninth character makes the message complete (R21). -/
theorem refdCharacter_of_eight (b : Byte) (o : OpenMessage) (s : State) (ho : s.trk.openMsg = some o)
    (h : o.chars.length = 8) : refdCharacter b s = endMessage (decodeMessage (o.chars ++ [b])) s := by
  have hnine : 9 ≤ (o.chars ++ [b]).length := by simp; omega
  simp only [refdCharacter, ho, hnine, if_true]

end Sys2Proof.Machine

open Sys2Proof Sys2Proof.Machine

/-- Settles O5: without an open message the edge only steers (`steerByRefp_eq`); with one it steers in the state that the
end of that message leaves (`refpEdge_endMessage`). -/
theorem refpEdgeOpensItsMessageAndSteers : Obligations.RefpEdgeOpensItsMessageAndSteers := by
  refine ⟨fun t s hrun hclosed => ?_, fun t s u hrun hu => ?_⟩
  · rw [exec_refpEdge, whenRunning_of_running _ s hrun, refpEdge, endMessage_of_closed none s hclosed, steerByRefp_eq]
  · rw [exec_messageWindowExpiry, whenRunning_of_running _ s hrun] at hu
    obtain rfl : endMessage none s = u := Host.Outcome.next.inj hu
    have hrun' : (endMessage none s).running = true := (endMessage_running none s).trans hrun
    rw [exec_refpEdge, exec_refpEdge, whenRunning_of_running _ s hrun, whenRunning_of_running _ _ hrun',
      refpEdge_endMessage]

/-- Settles O6, by the length of the open message, and by the fixed state outside one. -/
theorem charactersFillTheOpenMessage : Obligations.CharactersFillTheOpenMessage := by
  refine ⟨fun b o s hrun ho hfew => ?_, fun b s hclosed => ?_, fun s hclosed => ?_⟩
  · rw [exec_refdCharacter, whenRunning_of_running _ s hrun, refdCharacter_of_few b o s ho hfew]
  · rw [exec_refdCharacter, exec_referenceMessage, whenRunning_of_fixed _ s (refdCharacter_of_closed b s hclosed)]
    exact ⟨rfl, rfl⟩
  · rw [exec_refdFramingError, exec_messageWindowExpiry, whenRunning_of_fixed _ s (endMessage_of_closed none s hclosed)]
    exact ⟨rfl, rfl⟩
end

section
/-! SUPPORT. The reference message (R21): when its nine characters decode, and the count time that they name. -/

namespace Sys2Proof.Machine

/-- Whole days from 2000-01-01 to the first day of a year, year by year. -/
theorem yearLength_sum (year : Nat) :
    ((List.range year).map fun y => if y % 4 = 0 then 366 else 365).sum = 365 * year + (year + 3) / 4 := by
  induction year with
  | zero => rfl
  | succ year ih =>
    rw [List.range_succ, List.map_append, List.sum_append, ih]
    simp only [List.map_cons, List.map_nil, List.sum_cons, List.sum_nil]
    split <;> omega

theorem leapPlanOf_eq_some_iff (b : Byte) (plan : LeapPlan) :
    leapPlanOf b = some plan ↔
      b = 0x00 ∧ plan = .none ∨ b = 0x01 ∧ plan = .insert ∨ b = 0x02 ∧ plan = .delete := by
  constructor
  · intro h
    unfold leapPlanOf at h
    split at h
    next h0 => exact .inl ⟨h0, (Option.some.inj h).symm⟩
    next =>
      split at h
      next h1 => exact .inr (.inl ⟨h1, (Option.some.inj h).symm⟩)
      next =>
        split at h
        next h2 => exact .inr (.inr ⟨h2, (Option.some.inj h).symm⟩)
        next => contradiction
  · rintro (⟨rfl, rfl⟩ | ⟨rfl, rfl⟩ | ⟨rfl, rfl⟩) <;> rfl

/-- The second of day is in range under a plan, told by the byte that names the plan. -/
theorem secondOfDayOk_iff {b : Byte} {plan : LeapPlan} (h : leapPlanOf b = some plan) (sod : Nat) :
    secondOfDayOk sod plan = true ↔
      (sod ≤ 86399 ∧ ¬(sod = 86399 ∧ b = 0x02)) ∨ (sod = 86400 ∧ b = 0x01) := by
  obtain ⟨rfl, rfl⟩ | ⟨rfl, rfl⟩ | ⟨rfl, rfl⟩ := (leapPlanOf_eq_some_iff b plan).mp h <;> simp [secondOfDayOk]

section Decoding
variable (b0 b1 b2 b3 b4 b5 b6 b7 b8 : Byte)

/-- A message is decoded exactly when its plan, its check byte and its fields are in order. -/
theorem decodeMessage_eq_some_iff (m : RefMessage) :
    decodeMessage [b0, b1, b2, b3, b4, b5, b6, b7, b8] = some m ↔
      leapPlanOf b6 = some m.plan ∧ b8 = crc8 [b0, b1, b2, b3, b4, b5, b6, b7] ∧ b0.toNat ≤ 99
        ∧ 1 ≤ 256 * b1.toNat + b2.toNat ∧ 256 * b1.toNat + b2.toNat ≤ yearLength b0.toNat
        ∧ secondOfDayOk (65536 * b3.toNat + 256 * b4.toNat + b5.toNat) m.plan = true ∧ b7.toNat ≤ 1
        ∧ m.healthGood = (b7 == 0)
        ∧ m.time =
          ⟨dayNumber b0.toNat (256 * b1.toNat + b2.toNat), 65536 * b3.toNat + 256 * b4.toNat + b5.toNat⟩ := by
  obtain ⟨time, plan, good⟩ := m
  cases hplan : leapPlanOf b6 with
  | none => simp [decodeMessage, hplan]
  | some p =>
    simp only [decodeMessage, hplan, Option.ite_none_right_eq_some, Option.some.injEq, RefMessage.mk.injEq]
    constructor
    · rintro ⟨⟨hcheck, hyear, hdoy, hdoy', hsod, hhealth⟩, rfl, rfl, rfl⟩
      exact ⟨rfl, hcheck, hyear, hdoy, hdoy', hsod, hhealth, rfl, rfl⟩
    · rintro ⟨rfl, hcheck, hyear, hdoy, hdoy', hsod, hhealth, rfl, rfl⟩
      exact ⟨⟨hcheck, hyear, hdoy, hdoy', hsod, hhealth⟩, rfl, rfl, rfl⟩

/-- The health byte (Table 2.1). -/
theorem health_iff (good : Bool) :
    (b7.toNat ≤ 1 ∧ good = (b7 == 0)) ↔ (b7 = 0x00 ∧ good = true ∨ b7 = 0x01 ∧ good = false) := by
  have hone : b7.toNat ≤ 1 ↔ b7 = 0x00 ∨ b7 = 0x01 := by bv_omega
  rw [hone]
  constructor
  · rintro ⟨rfl | rfl, rfl⟩ <;> simp
  · rintro (⟨rfl, rfl⟩ | ⟨rfl, rfl⟩) <;> simp

end Decoding
end Sys2Proof.Machine

open Sys2Proof Sys2Proof.Machine

/-- Settles O7: an undecoded message ends as a missing one does, and each condition on a decoded one is that on its byte. -/
theorem referenceMessageDecoding : Obligations.ReferenceMessageDecoding := by
  refine ⟨?_, ?_⟩
  · intro b o s ho height hnone
    have hsame : refdCharacter b s = endMessage none s := by rw [refdCharacter_of_eight b o s ho height, hnone]
    rw [exec_referenceMessage, exec_refdFramingError, whenRunning, whenRunning, hsame]
  · intro b0 b1 b2 b3 b4 b5 b6 b7 b8 m year doy sod day
    have hday : dayNumber year doy = day := by simp only [dayNumber, day, yearLength_sum]
    have hdecode := decodeMessage_eq_some_iff b0 b1 b2 b3 b4 b5 b6 b7 b8 m
    refine ⟨?_, fun h => ?_⟩
    · rw [hdecode, ← leapPlanOf_eq_some_iff, ← health_iff, hday]
      constructor
      · rintro ⟨hplan, hcheck, hyear, hdoy, hdoy', hsod, hhealth, hgood, htime⟩
        exact ⟨hcheck, hyear, hdoy, hdoy', (secondOfDayOk_iff hplan sod).mp hsod, hplan, ⟨hhealth, hgood⟩, htime⟩
      · rintro ⟨hcheck, hyear, hdoy, hdoy', hsod, hplan, ⟨hhealth, hgood⟩, htime⟩
        exact ⟨hplan, hcheck, hyear, hdoy, hdoy', (secondOfDayOk_iff hplan sod).mpr hsod, hhealth, hgood, htime⟩
    · obtain ⟨-, -, -, -, -, -, -, -, htime⟩ := hdecode.mp h
      rw [htime, UtcTime.toCount, hday]
      simp only [Nat.mul_comm day]
      rfl
end

section
/-! SUPPORT. The judgement of a reference second (R22, R23, R26 to R32, R119): when a second is good and agrees, what no
judgement touches, and what each reference state does on each verdict, one equation per case. -/

namespace Sys2Proof.Machine

/-! ### The verdict (R23) -/

theorem Tracker.goodSecond_iff (t : Tracker) (edge : Instant) (m : RefMessage) :
    t.goodSecond edge m = true ↔
      m.healthGood = true ∧ ∃ p u, t.prevRef = some p ∧ p.instant + 995000 ≤ edge ∧ edge ≤ p.instant + 1005000
        ∧ p.time = some u ∧ m.time = u.successor p.plan := by
  cases hp : t.prevRef with
  | none => simp [Tracker.goodSecond, Tracker.intervalOk, hp]
  | some p =>
    cases hu : p.time with
    | none => simp [Tracker.goodSecond, Tracker.carriedTime, hp, hu]
    | some u =>
      simp only [Tracker.goodSecond, Tracker.intervalOk, Tracker.carriedTime, hp, hu, Option.bind_some,
        Option.map_some, Bool.and_eq_true, decide_eq_true_eq, beq_iff_eq, Option.some.injEq]
      constructor
      · rintro ⟨⟨hgood, hfrom, hto⟩, htime⟩
        exact ⟨hgood, p, u, rfl, hfrom, hto, hu, htime.symm⟩
      · rintro ⟨hgood, _, _, rfl, hfrom, hto, hu', htime⟩
        obtain rfl := Option.some.inj (hu.symm.trans hu')
        exact ⟨⟨hgood, hfrom, hto⟩, htime.symm⟩

theorem Tracker.agreesWith_iff (t : Tracker) (h : t.countValid = true) (edge : Instant) (time : UtcTime) :
    t.agreesWith edge time = true ↔
      ∃ k ∈ t.marks, edge ≤ k.instant + 5000 ∧ k.instant ≤ edge + 5000 ∧ k.time = some time.toCount := by
  simp only [Tracker.agreesWith, within, h, Bool.true_and, List.any_eq_true, Bool.and_eq_true, decide_eq_true_eq,
    beq_iff_eq, and_assoc]
  rfl

theorem Tracker.verdict_of_not_good (t : Tracker) (edge : Instant) (m : RefMessage) (h : ¬t.goodSecond edge m = true) :
    t.verdict edge (some m) = .notGood := by
  simp [Tracker.verdict, h]

theorem Tracker.verdict_of_good (t : Tracker) (edge : Instant) (m : RefMessage) (h : t.goodSecond edge m = true) :
    t.verdict edge (some m) = if t.agreesWith edge m.time then .agrees else .disagrees := by
  simp [Tracker.verdict, h]

/-- The record of a second without a decoded message (R22). -/
theorem Tracker.refSecond_none (t : Tracker) (instant : Instant) :
    t.refSecond instant none = ⟨instant, t.carriedTime, t.carriedPlan⟩ := rfl

/-! ### Notes of a judgement -/

/-- The state with a second noted as the previous one (R22). -/
def State.secondNoted (sec : RefSecond) (s : State) : State := { s with trk := { s.trk with prevRef := some sec } }

/-- The state after a judgement that moves the tracker to `k`: in the proof minute its reference state is read (R119). -/
def State.judgedTo (k : Tracker) (s : State) : State :=
  { s with trk := k, key := s.key.referenceRead k.refState }

/-- The tracker on the entry to STEPPING, with the second that disagreed noted (R28). -/
def Tracker.stepped (sec : RefSecond) (t : Tracker) : Tracker :=
  { t with prevRef := some sec, stepOrigin := t.refState, stepConf := 1, armed := false, refState := .stepping }

section Cases
variable (sec : RefSecond) (s : State)

/-! ### What every judgement leaves alone -/

/-- Of the key items a judgement reads the reference state that it leaves, in the proof minute (R119). -/
theorem judge_key (v : Verdict) : (judge sec v s).key = s.key.referenceRead (judge sec v s).trk.refState := by
  unfold judge
  rw [proofReferenceCheck_eq]
  dsimp only
  cases s.trk.refState with
  | acquiring => dsimp only; rw [judgeAcquiring_frame]
  | locked => dsimp only; rw [judgeLocked_frame]
  | holdover => dsimp only; rw [judgeRunningAlone_frame]
  | stepping => dsimp only; rw [judgeStepping_frame]
  | expired => dsimp only; rw [judgeRunningAlone_frame]

/-- Only the entry to LOCKED from ACQUIRING reaches the zone table and the decoder (R46, R131). -/
theorem judge_zone_dec (v : Verdict) (h : s.trk.refState ≠ .acquiring) :
    (judge sec v s).zone = s.zone ∧ (judge sec v s).dec = s.dec := by
  unfold judge
  rw [proofReferenceCheck_eq]
  dsimp only
  cases href : s.trk.refState with
  | acquiring => contradiction
  | locked => dsimp only; rw [judgeLocked_frame]; exact ⟨rfl, rfl⟩
  | holdover => dsimp only; rw [judgeRunningAlone_frame]; exact ⟨rfl, rfl⟩
  | stepping => dsimp only; rw [judgeStepping_frame]; exact ⟨rfl, rfl⟩
  | expired => dsimp only; rw [judgeRunningAlone_frame]; exact ⟨rfl, rfl⟩

/-! ### A second that is not good -/

theorem judge_notGood_of_acquiring (h : s.trk.refState = .acquiring) :
    judge sec .notGood s = s.judgedTo { s.trk with prevRef := some sec, goodRun := 0 } := by
  simp only [judge, h, judgeAcquiring, proofReferenceCheck_eq, State.judgedTo]

theorem judge_notGood_of_alone (h : s.trk.refState = .holdover ∨ s.trk.refState = .expired) :
    judge sec .notGood s = s.judgedTo { s.trk with prevRef := some sec, goodRun := 0 } := by
  obtain h | h := h <;> simp only [judge, h, judgeRunningAlone, proofReferenceCheck_eq, State.judgedTo]

theorem judge_notGood_of_locked_first (h : s.trk.refState = .locked) (hbad : s.trk.badRun = 0) :
    judge sec .notGood s = s.judgedTo { s.trk with prevRef := some sec, badRun := 1 } := by
  simp [judge, h, judgeLocked, proofReferenceCheck_eq, State.judgedTo, hbad]

theorem judge_notGood_of_locked_second (h : s.trk.refState = .locked) (hbad : s.trk.badRun ≠ 0) :
    judge sec .notGood s =
      (s.raise .refLost).judgedTo
        { s.trk with prevRef := some sec, badRun := 2, refState := .holdover, holdover := 0, goodRun := 0 } := by
  have htwo : 2 ≤ s.trk.badRun + 1 := by omega
  simp only [judge, h, judgeLocked, proofReferenceCheck_eq, htwo, if_true]
  rfl

theorem judge_notGood_of_stepping (h : s.trk.refState = .stepping) :
    judge sec .notGood s =
      (s.raise .refLost).judgedTo
        { s.trk with
          prevRef := some sec
          stepConf := 0
          armed := false
          goodRun := 0
          refState := if 3600 ≤ s.trk.holdover then .expired else .holdover } := by
  simp only [judge, h, judgeStepping, proofReferenceCheck_eq]
  rfl

/-! ### A good second that disagrees -/

theorem judge_disagrees_of_counting
    (h : s.trk.refState = .locked ∨ s.trk.refState = .holdover ∨ s.trk.refState = .expired) :
    judge sec .disagrees s = (s.raise .refStep).judgedTo (s.trk.stepped sec) := by
  obtain h | h | h := h <;>
    simp only [judge, h, judgeLocked, judgeRunningAlone, proofReferenceCheck_eq, enterStepping, Tracker.stepped] <;> rfl

theorem judge_disagrees_of_stepping (h : s.trk.refState = .stepping) :
    judge sec .disagrees s =
      s.judgedTo
        { s.trk with
          prevRef := some sec
          stepConf := min 4 (s.trk.stepConf + 1)
          armed := s.trk.armed || decide (3 ≤ s.trk.stepConf) } := by
  have hfour : (min 4 (s.trk.stepConf + 1) == 4) = decide (3 ≤ s.trk.stepConf) := by
    rw [Bool.eq_iff_iff, beq_iff_eq, decide_eq_true_eq]
    omega
  simp only [judge, h, judgeStepping, proofReferenceCheck_eq, State.judgedTo, hfour]

/-! ### A good second that agrees -/

theorem judge_agrees_of_locked (h : s.trk.refState = .locked) :
    judge sec .agrees s =
      s.judgedTo { s.trk with prevRef := some sec, badRun := 0, plan := s.trk.planFrom sec.plan } := by
  simp only [judge, h, judgeLocked, proofReferenceCheck_eq, State.judgedTo]
  rfl

theorem judge_agrees_of_alone_few (h : s.trk.refState = .holdover ∨ s.trk.refState = .expired)
    (hrun : s.trk.goodRun < 3) :
    judge sec .agrees s = s.judgedTo { s.trk with prevRef := some sec, goodRun := s.trk.goodRun + 1 } := by
  have hfew : ¬4 ≤ s.trk.goodRun + 1 := by omega
  obtain h | h := h <;>
    simp only [judge, h, judgeRunningAlone, proofReferenceCheck_eq, State.judgedTo, hfew, if_false]

theorem judge_agrees_of_alone_fourth (h : s.trk.refState = .holdover ∨ s.trk.refState = .expired)
    (hrun : 3 ≤ s.trk.goodRun) :
    judge sec .agrees s =
      (s.raise .refLocked).judgedTo
        { s.trk with
          prevRef := some sec
          refState := .locked
          anchor := sec.instant
          plan := s.trk.planFrom sec.plan
          badRun := 0
          goodRun := 0
          holdover := 0 } := by
  have hfour : 4 ≤ s.trk.goodRun + 1 := by omega
  obtain h | h := h <;>
    simp only [judge, h, judgeRunningAlone, proofReferenceCheck_eq, hfour, if_true] <;> rfl

theorem judge_agrees_of_stepping (h : s.trk.refState = .stepping) :
    judge sec .agrees s =
      s.judgedTo
        { s.trk with
          prevRef := some sec
          stepConf := 0
          armed := false
          refState := s.trk.stepOrigin
          badRun := if s.trk.stepOrigin = .locked then 0 else s.trk.badRun
          anchor := if s.trk.stepOrigin = .locked then sec.instant else s.trk.anchor
          goodRun := if s.trk.stepOrigin = .locked then s.trk.goodRun else 1 } := by
  by_cases horigin : s.trk.stepOrigin = .locked <;>
    simp [judge, h, judgeStepping, proofReferenceCheck_eq, State.judgedTo, horigin]

/-! ### A good second in ACQUIRING (R26) -/

variable {sec} {v : Verdict} {time : UtcTime}

theorem judge_good_of_acquiring_few (h : s.trk.refState = .acquiring) (hv : v ≠ .notGood) (htime : sec.time = some time)
    (hrun : s.trk.goodRun < 3) :
    judge sec v s = s.judgedTo { s.trk with prevRef := some sec, goodRun := s.trk.goodRun + 1 } := by
  have hfew : ¬4 ≤ s.trk.goodRun + 1 := by omega
  cases v with
  | notGood => contradiction
  | agrees => simp only [judge, h, judgeAcquiring, htime, proofReferenceCheck_eq, State.judgedTo, hfew, if_false]
  | disagrees => simp only [judge, h, judgeAcquiring, htime, proofReferenceCheck_eq, State.judgedTo, hfew, if_false]

theorem judge_good_of_acquiring_fourth (h : s.trk.refState = .acquiring) (hv : v ≠ .notGood)
    (htime : sec.time = some time) (hrun : 3 ≤ s.trk.goodRun) :
    judge sec v s =
      (lockFromAcquiring sec time (s.secondNoted sec)).judgedTo ((s.secondNoted sec).trk.lockedAt sec time) := by
  have hfour : 4 ≤ s.trk.goodRun + 1 := by omega
  rw [← lockFromAcquiring_trk]
  cases v with
  | notGood => contradiction
  | agrees => simp only [judge, h, judgeAcquiring, htime, proofReferenceCheck_eq, hfour, if_true]; rfl
  | disagrees => simp only [judge, h, judgeAcquiring, htime, proofReferenceCheck_eq, hfour, if_true]; rfl

end Cases
end Sys2Proof.Machine
end

section
/-! SUPPORT. The rows that end a reference second (R20 to R22), as the judgement that they lead to. -/

namespace Sys2Proof.Machine

theorem exec_referenceMessage_of_decoded (b : Byte) (o : OpenMessage) (m : RefMessage) (s : State)
    (hrun : s.running = true) (ho : s.trk.openMsg = some o) (height : o.chars.length = 8)
    (hmsg : decodeMessage (o.chars ++ [b]) = some m) :
    exec (.referenceMessage b) s =
      .next (judge ⟨o.edge, some m.time, m.plan⟩ (s.trk.verdict o.edge (some m)) s.messageClosed) := by
  rw [exec_referenceMessage, whenRunning_of_running _ s hrun, refdCharacter_of_eight b o s ho height, hmsg,
    endMessage_of_open _ o s ho]
  rfl

/-- A framing error and an expiry leave the message missing (R20). -/
theorem exec_of_missing (c : Instr) (o : OpenMessage) (s : State) (hrun : s.running = true)
    (hc : c = .refdFramingError ∨ c = .messageWindowExpiry) (ho : s.trk.openMsg = some o) :
    exec c s = .next (judge (s.trk.refSecond o.edge none) .notGood s.messageClosed) := by
  have hend : endMessage none s = judge (s.trk.refSecond o.edge none) .notGood s.messageClosed :=
    endMessage_of_open none o s ho
  obtain rfl | rfl := hc
  · rw [exec_refdFramingError, whenRunning_of_running _ s hrun, hend]
  · rw [exec_messageWindowExpiry, whenRunning_of_running _ s hrun, hend]

theorem exec_notionalReferenceSecond_of_due (p : RefSecond) (s : State) (hrun : s.running = true)
    (hp : s.trk.prevRef = some p) (ho : s.trk.openMsg = none) :
    exec .notionalReferenceSecond s =
      .next (judge (s.trk.refSecond (p.instant + 1000000) none) .notGood s.messageClosed) := by
  rw [exec_notionalReferenceSecond, whenRunning_of_running _ s hrun, s.messageClosed_of_closed ho]
  simp only [notionalSecond, hp, ho]
  rfl

/-- What R22 carries on from the previous second. -/
theorem Tracker.refSecond_none_eq (t : Tracker) (instant : Instant) :
    t.refSecond instant none =
      match t.prevRef with
      | some ⟨_, some u, plan⟩ => ⟨instant, some (u.successor plan), plan⟩
      | _ => ⟨instant, none, .none⟩ := by
  rw [Tracker.refSecond_none, Tracker.carriedTime, Tracker.carriedPlan]
  obtain _ | ⟨_, _ | u, plan⟩ := t.prevRef <;> rfl

@[simp] theorem State.judgedTo_latched (k : Tracker) (e : Event) (s : State) :
    (s.judgedTo k).latched e = s.latched e := rfl

end Sys2Proof.Machine

open Sys2Proof Sys2Proof.Machine

/-- Settles O8: each of the sources leads to a judgement that is not good, and each reference state answers it by one
equation. -/
theorem notGoodSecondActsOnTheReferenceState : Obligations.NotGoodSecondActsOnTheReferenceState := by
  intro c s instant judged hrun hsource k
  have hexec : exec c s = .next (judge judged .notGood s.messageClosed) := by
    obtain ⟨hc, hjudged, chars, ho⟩ | ⟨rfl, hjudged, ho, p, hp, hinstant⟩ |
      ⟨b, chars, m, rfl, ho, height, hmsg, hbad, hjudged⟩ := hsource
    · rw [hjudged.trans (Tracker.refSecond_none_eq s.trk instant).symm]
      exact exec_of_missing c _ s hrun hc ho
    · rw [hjudged.trans (Tracker.refSecond_none_eq s.trk instant).symm, hinstant]
      exact exec_notionalReferenceSecond_of_due p s hrun hp ho
    · rw [exec_referenceMessage_of_decoded b _ m s hrun ho height hmsg, Tracker.verdict_of_not_good, hjudged]
      rwa [Tracker.goodSecond_iff]
  refine ⟨_, hexec, ?_⟩
  split
  next href =>
    rw [judge_notGood_of_acquiring judged s.messageClosed href]
    exact ⟨rfl, rfl, rfl, rfl⟩
  next href =>
    rw [judge_notGood_of_alone judged s.messageClosed (.inl href)]
    exact ⟨rfl, rfl, rfl, rfl⟩
  next href =>
    rw [judge_notGood_of_alone judged s.messageClosed (.inr href)]
    exact ⟨rfl, rfl, rfl, rfl⟩
  next href =>
    split
    next hbad =>
      rw [judge_notGood_of_locked_first judged s.messageClosed href hbad]
      exact ⟨rfl, rfl, rfl, rfl⟩
    next hbad =>
      rw [judge_notGood_of_locked_second judged s.messageClosed href hbad]
      exact ⟨rfl, rfl, rfl, rfl⟩
  next href =>
    rw [judge_notGood_of_stepping judged s.messageClosed href]
    exact ⟨rfl, rfl, rfl, rfl⟩

/-- Settles O9: below the fourth the run alone moves; the fourth is `lockFromAcquiring`, whose parts are read off. -/
theorem goodSecondInAcquiring : Obligations.GoodSecondInAcquiring := by
  intro b o m p u s hrun href ho height hmsg hhealth hp hfrom hto hu htime
  have hgood : s.trk.goodSecond o.edge m = true :=
    (Tracker.goodSecond_iff _ _ _).mpr ⟨hhealth, p, u, hp, hfrom, hto, hu, htime⟩
  have hverdict : s.trk.verdict o.edge (some m) ≠ .notGood := by
    rw [Tracker.verdict_of_good _ _ _ hgood]
    split <;> nofun
  refine ⟨_, exec_referenceMessage_of_decoded b o m s hrun ho height hmsg, ?_⟩
  obtain hfew | hfourth := Nat.lt_or_ge s.trk.goodRun 3
  · rw [judge_good_of_acquiring_few s.messageClosed href hverdict rfl hfew]
    exact ⟨rfl, rfl, rfl, rfl, fun _ => ⟨rfl, rfl, rfl, rfl⟩, fun h => absurd h (Nat.not_le.mpr hfew)⟩
  · rw [judge_good_of_acquiring_fourth s.messageClosed href hverdict rfl hfourth]
    refine ⟨rfl, rfl, ?_, congrArg (KeyCtl.referenceRead _) (lockFromAcquiring_key _ _ _),
      fun h => absurd h (Nat.not_lt.mpr hfourth), fun _ => ?_⟩
    · rw [lockFromAcquiring_frame]
      rfl
    · refine ⟨rfl, rfl, rfl, rfl, rfl, rfl, rfl, rfl, ?_, relabelLast_eq _ _, lockFromAcquiring_zone _ _ _, ?_,
        lockFromAcquiring_openMinute _ _ _⟩
      · rw [State.judgedTo_latched]
        exact lockFromAcquiring_latched _ _ _
      · intro hzone
        have hsettles := lockFromAcquiring_settlesTo ⟨o.edge, some m.time, m.plan⟩ m.time
          (s.messageClosed.secondNoted ⟨o.edge, some m.time, m.plan⟩) hzone
        exact State.settlesTo_of_eq (State.settlesTo_of_start hsettles rfl rfl) rfl (State.judgedTo_latched _ _ _)

/-- Settles O10: the second is good, so its verdict is that of the own edges near it, and each reference state answers each
verdict by one equation. -/
theorem goodSecondWithARunningCount : Obligations.GoodSecondWithARunningCount := by
  intro b o m p u s hrun hvalid ho height hmsg hhealth hp hfrom hto hu htime agrees k plan stepped
  have hgood : s.trk.goodSecond o.edge m = true :=
    (Tracker.goodSecond_iff _ _ _).mpr ⟨hhealth, p, u, hp, hfrom, hto, hu, htime⟩
  have hagrees : s.trk.agreesWith o.edge m.time = true ↔ agrees := Tracker.agreesWith_iff _ hvalid _ _
  have hyes (h : agrees) : s.trk.verdict o.edge (some m) = .agrees := by
    rw [Tracker.verdict_of_good _ _ _ hgood, if_pos (hagrees.mpr h)]
  have hno (h : ¬agrees) : s.trk.verdict o.edge (some m) = .disagrees := by
    rw [Tracker.verdict_of_good _ _ _ hgood, if_neg (mt hagrees.mp h)]
  refine ⟨_, exec_referenceMessage_of_decoded b o m s hrun ho height hmsg, judge_frame _ _ _, judge_key _ _ _, ?_,
    judge_zone_dec _ s.messageClosed _⟩
  split
  next href => trivial
  next href =>
    refine ⟨fun h => ?_, fun h => ?_⟩
    · rw [hyes h, judge_agrees_of_locked _ s.messageClosed href]
      exact ⟨rfl, rfl⟩
    · rw [hno h, judge_disagrees_of_counting _ s.messageClosed (.inl href)]
      exact ⟨rfl, rfl⟩
  next href =>
    refine ⟨fun h => ?_, fun h => ?_⟩
    · rw [hyes h, judge_agrees_of_stepping _ s.messageClosed href]
      exact ⟨rfl, rfl⟩
    · rw [hno h, judge_disagrees_of_stepping _ s.messageClosed href]
      exact ⟨rfl, rfl⟩
  next hnot1 hnot2 hnot3 =>
    have halone : s.trk.refState = .holdover ∨ s.trk.refState = .expired := by
      cases href : s.trk.refState <;> simp_all
    refine ⟨fun h => ⟨fun hfew => ?_, fun hfourth => ?_⟩, fun h => ?_⟩
    · rw [hyes h, judge_agrees_of_alone_few _ s.messageClosed halone hfew]
      exact ⟨rfl, rfl⟩
    · rw [hyes h, judge_agrees_of_alone_fourth _ s.messageClosed halone hfourth]
      exact ⟨rfl, rfl⟩
    · rw [hno h, judge_disagrees_of_counting _ s.messageClosed (.inr halone)]
      exact ⟨rfl, rfl⟩
end

section
/-! SUPPORT. No operation of an own edge touches the enable mask (R183): one lemma per operation that raises events. -/

namespace Sys2Proof.Machine

@[simp] theorem State.raiseIf_mask (c : Bool) (e : Event) (s : State) : (s.raiseIf c e).ev.mask = s.ev.mask := by
  cases c <;> rfl

/-! ### Store and lanes -/

@[simp] theorem arrive_mask (l : LaneNo) (b : Bool) (s : State) : (arrive l b s).ev.mask = s.ev.mask := by
  unfold arrive
  dsimp only
  repeat' split
  all_goals rfl

@[simp] theorem writeBack_mask (l : LaneNo) (k : Option DescIndex) (s : State) :
    (writeBack l k s).ev.mask = s.ev.mask := by
  unfold writeBack
  dsimp only
  rw [arrive_mask]
  split <;> rfl

@[simp] theorem creditEnd_mask (l : LaneNo) (k : Option DescIndex) (s : State) :
    (creditEnd l k s).ev.mask = s.ev.mask := by
  unfold creditEnd
  dsimp only
  split
  · rfl
  · exact writeBack_mask _ _ _

@[simp] theorem credit_mask (l : LaneNo) (i : DescIndex) (s : State) : (credit l i s).ev.mask = s.ev.mask := by
  unfold credit
  dsimp only
  split
  · exact creditEnd_mask _ _ _
  · exact arrive_mask _ _ _

@[simp] theorem takeCredit_mask (r : Option AirRecord) (d : Option Draft) (s : State) :
    (takeCredit r d s).ev.mask = s.ev.mask := by
  unfold takeCredit
  repeat' split
  all_goals simp

@[simp] theorem examineLanes_mask (ls : List LaneNo) (acc : State × Option (LaneNo × DescIndex)) :
    (ls.foldl examineLane acc).1.ev.mask = acc.1.ev.mask := by
  induction ls generalizing acc with
  | nil => rfl
  | cons l ls ih =>
    rw [List.foldl_cons, ih]
    unfold examineLane
    dsimp only
    repeat' split
    all_goals rfl

@[simp] theorem laneChoice_mask (s : State) : (laneChoice s).1.ev.mask = s.ev.mask := by
  have hexamined := examineLanes_mask s.laneOrder (s, none)
  unfold laneChoice
  dsimp only
  repeat' split
  all_goals exact hexamined

/-! ### The minute boundary -/

@[simp] theorem closeAirMinute_mask (m : Nat) (s : State) : (closeAirMinute m s).1.ev.mask = s.ev.mask := by
  unfold closeAirMinute
  dsimp only
  split
  · rfl
  · exact State.raiseIf_mask _ _ _

@[simp] theorem zoneDue_mask (c : Nat) (s : State) : (zoneDue c s).ev.mask = s.ev.mask := by
  unfold zoneDue
  split <;> rfl

@[simp] theorem proofJudge_mask (s : State) : (proofJudge s).ev.mask = s.ev.mask := by
  unfold proofJudge
  repeat' split
  all_goals rfl

@[simp] theorem minuteBoundary_mask (m : Nat) (s : State) : (minuteBoundary m s).ev.mask = s.ev.mask := by
  unfold minuteBoundary
  dsimp only
  rw [proofBegin_frame, handOver_frame, listenBoundary_frame]
  dsimp only
  rw [zoneDue_mask, proofJudge_mask, takeCredit_mask, countdowns_frame]
  exact closeAirMinute_mask m s

/-! ### The other parts of an own edge -/

@[simp] theorem keyEdge_mask (b : Bool) (s : State) : (keyEdge b s).ev.mask = s.ev.mask := by
  unfold keyEdge
  dsimp only
  repeat' split
  all_goals rfl

@[simp] theorem freezeEdge_mask (b : KeyState) (r : Bool) (s : State) : (freezeEdge b r s).ev.mask = s.ev.mask := by
  have hask (q : Bool) : (askLanes q (clearAssentPasses s)).1.ev.mask = s.ev.mask := by
    unfold askLanes
    split
    · rfl
    · exact laneChoice_mask _
  unfold freezeEdge freeze
  dsimp only
  split
  · rfl
  · split
    · rfl
    · exact hask _

@[simp] theorem trackerEdge_mask (s : State) : (trackerEdge s).ev.mask = s.ev.mask := by
  unfold trackerEdge
  dsimp only
  rw [State.raiseIf_mask, State.raiseIf_mask]

@[simp] theorem secondEnds_mask (r : Bool) (e : Instant) (s : State) : (secondEnds r e s).ev.mask = s.ev.mask := by
  have hcue (x : SecondEntry) (t : State) : (cueStep x t).ev.mask = t.ev.mask := by
    unfold cueStep
    repeat' split
    all_goals rfl
  unfold secondEnds
  split
  · rfl
  · dsimp only
    split <;> exact hcue _ _

@[simp] theorem endWindow_mask (s : State) : (endWindow s).ev.mask = s.ev.mask := by
  have hcancelled (t : State) : (cancelUnreadYield t).ev.mask = t.ev.mask := by
    unfold cancelUnreadYield resolveYield
    dsimp only
    repeat' split
    all_goals rfl
  have hmissed : (missPass s).ev.mask = s.ev.mask := by rw [missPass_frame]
  unfold endWindow
  split
  · exact (State.raiseIf_mask _ _ _).trans ((hcancelled _).trans hmissed)
  · exact hmissed
  · rfl

theorem State.edgeCounted_mask (s : State) : s.edgeCounted.ev.mask = s.ev.mask := by
  simp [State.edgeCounted]

theorem ownEdge_mask (s : State) : (ownEdge s).ev.mask = s.ev.mask := by
  have hend (t : State) : (proofReferenceCheck (beginSecond t)).ev.mask = t.ev.mask := by
    rw [proofReferenceCheck_eq]
    rfl
  cases hboundary : s.trk.boundaryNext with
  | true => rw [ownEdge_of_boundary s hboundary, hend, keyEdge_mask, minuteBoundary_mask, State.edgeCounted_mask]
  | false =>
    cases hfreeze : s.trk.freezeNext with
    | true => rw [ownEdge_of_freeze s hfreeze, hend, freezeEdge_mask, keyEdge_mask, State.edgeCounted_mask]
    | false => rw [ownEdge_of_plain s hboundary hfreeze, hend, keyEdge_mask, State.edgeCounted_mask]

/-! ### Latches -/

/-- A latch that the first part of an own edge leaves set, the whole edge leaves set (R182). -/
theorem ownEdge_latched_of_counted (s : State) (e : Event) (h : s.edgeCounted.latched e = true) :
    (ownEdge s).latched e = true := by
  have hend (t : State) (ht : t.latched e = true) : (proofReferenceCheck (beginSecond t)).latched e = true := by
    rw [proofReferenceCheck_eq]
    exact ht
  cases hboundary : s.trk.boundaryNext with
  | true =>
    rw [ownEdge_of_boundary s hboundary]
    exact hend _ (keyEdge_latched e _ _ (minuteBoundary_latched e _ _ h))
  | false =>
    cases hfreeze : s.trk.freezeNext with
    | true =>
      rw [ownEdge_of_freeze s hfreeze]
      exact hend _ (freezeEdge_latched e _ _ _ (keyEdge_latched e _ _ h))
    | false =>
      rw [ownEdge_of_plain s hboundary hfreeze]
      exact hend _ (keyEdge_latched e _ _ h)

end Sys2Proof.Machine
end

section
/-! SUPPORT. The tracker at an own edge (R24, R25, R30, R31, R33, R34): when each of its conditions on the coming edge holds. -/

namespace Sys2Proof.Machine

theorem exec_ownEdge_of_running (s : State) (h : s.running = true) : exec .ownEdge s = .next (ownEdge s) :=
  congrArg Host.Outcome.next (whenRunning_of_running _ s h)

/-! ### The count (R25) -/

theorem minuteLength_eq (m : Nat) (plan : LeapPlan) :
    minuteLength m plan =
      if m % 1440 = 1439 then
        match plan with
        | .none => 60
        | .insert => 61
        | .delete => 59
      else 60 := by
  cases plan <;> simp [minuteLength, isLastMinuteOfDay]

section Count
variable (t : Tracker)

theorem Tracker.inLastSecond_iff (h : t.countValid = true) :
    t.inLastSecond = true ↔ minuteLength t.minute t.plan ≤ t.second + 1 := by
  simp [Tracker.inLastSecond, h]

theorem Tracker.boundaryNext_iff :
    t.boundaryNext = true ↔ t.countValid = true ∧ minuteLength t.minute t.plan ≤ t.second + 1 := by
  simp [Tracker.boundaryNext, Tracker.inLastSecond]

theorem Tracker.nextCount_of_boundary (h : t.boundaryNext = true) : t.nextCount = ⟨t.minute + 1, 0⟩ :=
  if_pos (Bool.and_eq_true _ _ ▸ h).2

theorem Tracker.nextCount_of_within (hvalid : t.countValid = true) (h : t.second + 1 < minuteLength t.minute t.plan) :
    t.nextCount = ⟨t.minute, t.second + 1⟩ :=
  if_neg fun hlast => Nat.not_le.mpr h ((t.inLastSecond_iff hvalid).mp hlast)

theorem Tracker.atEdge_count_of_valid (h : t.countValid = true) :
    (⟨t.atEdge.minute, t.atEdge.second⟩ : CountTime) = t.nextCount := by
  simp [Tracker.atEdge, h]

/-! ### The day's end and the plan (R33, R34) -/

theorem Tracker.dayEndsNext_iff : t.dayEndsNext = true ↔ t.boundaryNext = true ∧ (t.minute + 1) % 1440 = 0 := by
  unfold Tracker.dayEndsNext
  rw [Bool.and_eq_true, beq_iff_eq]
  exact and_congr_right fun h => by rw [t.nextCount_of_boundary h]

/-- Second 47 of 23:58 is not the last of its minute, so the count reaches 23:58:48. -/
theorem Tracker.planFreezesNext_eq :
    t.planFreezesNext = (t.countValid && decide (t.second = 47) && decide (t.minute % 1440 = 1438)) := by
  have hnotLast (hminute : t.minute % 1440 = 1438) (hsecond : t.second = 47) : t.inLastSecond = false := by
    have hlength : minuteLength t.minute t.plan = 60 := by rw [minuteLength_eq, if_neg (by omega)]
    simp [Tracker.inLastSecond, hlength, hsecond]
  rw [Bool.eq_iff_iff]
  simp only [Tracker.planFreezesNext, Tracker.freezeNext, Bool.and_eq_true, beq_iff_eq, decide_eq_true_eq,
    Bool.not_eq_true']
  constructor
  · rintro ⟨⟨⟨hvalid, hsecond⟩, -⟩, hminute⟩
    exact ⟨⟨hvalid, hsecond⟩, hminute⟩
  · rintro ⟨⟨hvalid, hsecond⟩, hminute⟩
    exact ⟨⟨⟨hvalid, hsecond⟩, hnotLast hminute hsecond⟩, hminute⟩

/-! ### The holdover count (R31) -/

theorem Tracker.atEdge_of_holdover (h : t.refState = .holdover) :
    t.atEdge.holdover = min 3600 (t.holdover + 1)
      ∧ t.atEdge.refState = if 3600 ≤ t.holdover + 1 then .expired else .holdover := by
  simp [Tracker.atEdge, Tracker.expiresNext, h]

theorem Tracker.atEdge_of_not_holdover (h : t.refState ≠ .holdover) :
    t.atEdge.holdover = t.holdover ∧ t.atEdge.refState = t.refState := by
  simp [Tracker.atEdge, Tracker.expiresNext, h]

end Count

/-! ### The events of the tracker's part -/

/-- The tracker raises its events whatever the window and the second that ended have raised. -/
theorem State.edgeCounted_latched (s : State) :
    (s.trk.expiresNext = true → s.edgeCounted.latched .refExpired = true)
      ∧ (s.trk.dayEndsNext = true → s.trk.plan ≠ .none → s.edgeCounted.latched .leapApplied = true) := by
  have htrk : ((secondEnds s.windowRead s.trk.nextEdge (endWindow s)).releaseKeying s.trk.nextEdge).trk = s.trk := by
    rw [State.releaseKeying_trk, secondEnds_frame, endWindow_frame]
  unfold State.edgeCounted trackerEdge
  rw [htrk]
  refine ⟨fun h => ?_, fun h hplan => ?_⟩
  · simp [State.raiseIf_latched, h]
  · simp [State.raiseIf_latched, h, hplan]

end Sys2Proof.Machine

open Sys2Proof Sys2Proof.Machine

/-- Settles O11: the tracker after the edge is `Tracker.atEdge` (`ownEdge_trk`), and the other parts are read off the laws of
the own edge. -/
theorem ownEdgeMovesTheCountAndTheAnchor : Obligations.OwnEdgeMovesTheCountAndTheAnchor := by
  intro s hrun length
  have hlength : minuteLength s.trk.minute s.trk.plan = length := minuteLength_eq _ _
  obtain ⟨-, hpwr, hstraps, hreq, hlink, -⟩ := ownEdge_static s
  obtain ⟨htick, -, -, hpeer, -⟩ := ownEdge_keying s
  refine ⟨_, exec_ownEdge_of_running s hrun, ?_⟩
  rw [ownEdge_trk, ownEdge_win, htick, hpeer, hpwr, hstraps, hreq, hlink, ownEdge_mask]
  have hcount : s.trk.countValid = true →
      if s.trk.second + 1 < length then
        s.trk.atEdge.minute = s.trk.minute ∧ s.trk.atEdge.second = s.trk.second + 1
      else s.trk.atEdge.minute = s.trk.minute + 1 ∧ s.trk.atEdge.second = 0 := by
    intro hvalid
    have hnext := s.trk.atEdge_count_of_valid hvalid
    split
    next hwithin =>
      rw [s.trk.nextCount_of_within hvalid (hlength ▸ hwithin)] at hnext
      exact CountTime.mk.inj hnext
    next hlast =>
      rw [s.trk.nextCount_of_boundary (s.trk.boundaryNext_iff.mpr ⟨hvalid, hlength ▸ Nat.not_lt.mp hlast⟩)] at hnext
      exact CountTime.mk.inj hnext
  have hinvalid : s.trk.countValid = false →
      s.trk.atEdge.minute = s.trk.minute ∧ s.trk.atEdge.second = s.trk.second := by
    intro hvalid
    simp [Tracker.atEdge, hvalid]
  have hmarks : s.trk.atEdge.marks =
      (⟨s.trk.atEdge.lastEdge, if s.trk.countValid then some ⟨s.trk.atEdge.minute, s.trk.atEdge.second⟩ else none⟩
        :: s.trk.marks).take 4 := by
    cases hvalid : s.trk.countValid <;> simp [Tracker.atEdge, hvalid]
  have hdue : s.trk.atEdge.realignDue = true ↔ s.boundaryAhead ∧ s.trk.armed = true := by
    simp [Tracker.atEdge, Tracker.boundaryNext_iff, State.boundaryAhead, hrun]
  exact ⟨rfl, rfl, rfl, rfl, rfl, rfl, hinvalid, hcount, rfl, rfl, rfl, rfl, rfl, rfl, rfl, hmarks, hdue, rfl, rfl, rfl,
    rfl, rfl, rfl, rfl, rfl⟩

/-- Settles O12: each clause is a condition of `Tracker.atEdge`, and its event stays latched to the end of the edge. -/
theorem ownEdgeHoldoverAndLeapPlan : Obligations.OwnEdgeHoldoverAndLeapPlan := by
  intro s hrun
  obtain ⟨hexpired, hleap⟩ := s.edgeCounted_latched
  have hdayEnds : s.trk.dayEndsNext = true ↔ s.boundaryAhead ∧ (s.trk.minute + 1) % 1440 = 0 := by
    simp [Tracker.dayEndsNext_iff, Tracker.boundaryNext_iff, State.boundaryAhead, hrun]
  refine ⟨_, exec_ownEdge_of_running s hrun, ?_⟩
  rw [ownEdge_trk]
  refine ⟨fun href => ?_, s.trk.atEdge_of_not_holdover, fun hboundary hday => ?_, fun hnot => ?_⟩
  · obtain ⟨hholdover, hstate⟩ := s.trk.atEdge_of_holdover href
    refine ⟨hholdover, fun hbelow => ?_, fun hreached => ⟨?_, ?_⟩⟩
    · rw [hstate, if_neg (Nat.not_le.mpr hbelow)]
    · rw [hstate, if_pos hreached]
    · refine ownEdge_latched_of_counted s _ (hexpired ?_)
      simp [Tracker.expiresNext, href, hreached]
  · have hends : s.trk.dayEndsNext = true := hdayEnds.mpr ⟨hboundary, hday⟩
    refine ⟨?_, ?_, fun hplan => ownEdge_latched_of_counted s _ (hleap hends hplan)⟩
    · simp [Tracker.atEdge, hends]
    · simp [Tracker.atEdge, hends]
  · have hends : s.trk.dayEndsNext = false := Bool.eq_false_iff.mpr (mt hdayEnds.mp hnot)
    refine ⟨?_, ?_⟩
    · simp [Tracker.atEdge, hends]
    · simp [Tracker.atEdge, hends, Tracker.planFreezesNext_eq]
end

section
/-! SUPPORT. The realign (R30, R66, R106, R127): the edge that it takes, the state that it moves to, and what becomes of CURRENT
and the lines. -/

namespace Sys2Proof.Machine

theorem exec_realign_of_running (s : State) (h : s.running = true) : exec .realign s = .next (realign s) :=
  congrArg Host.Outcome.next (whenRunning_of_running _ s h)

/-! ### The edge that a realign takes (R30) -/

/-- The edge of an open message that came in time is the latest, and its second carries the reference time on. -/
theorem Tracker.realignTarget_of_open (t : Tracker) (o : OpenMessage) (p : RefSecond) (v : UtcTime)
    (ho : t.openMsg = some o) (hintime : o.edge ≤ t.lastEdge + 5000) (hp : t.prevRef = some p) (hv : p.time = some v) :
    t.realignTarget = some (o.edge, v.successor p.plan) := by
  have hle : o.edge ≤ t.lastEdge + ms 5 := hintime
  simp [Tracker.realignTarget, Tracker.carriedTime, ho, hle, hp, hv]

/-- Otherwise the latest edge is that of the previous reference second. -/
theorem Tracker.realignTarget_of_judged (t : Tracker) (p : RefSecond) (u : UtcTime)
    (hlate : ∀ o, t.openMsg = some o → t.lastEdge + 5000 < o.edge) (hp : t.prevRef = some p) (hu : p.time = some u) :
    t.realignTarget = some (p.instant, u) := by
  cases ho : t.openMsg with
  | none => simp [Tracker.realignTarget, ho, hp, hu]
  | some o =>
    have hnot : ¬o.edge ≤ t.lastEdge + ms 5 := Nat.not_le.mpr (hlate o ho)
    simp [Tracker.realignTarget, ho, hnot, hp, hu]

/-! ### The state before CURRENT is looked at -/

/-- The state of a realign with the count and the anchor moved, the zone table settled and the open minute begun anew. -/
def State.realignedTo (e : Instant) (u : UtcTime) (s : State) : State :=
  openUnobserved u.toCount
    (settleZone u.toCount.minute s.pastEntry
      ({ s with trk := s.trk.realigned e u.toCount }.raise .realigned))

section Moved
variable (e : Instant) (u : UtcTime) (s : State)

theorem State.realignedTo_frame :
    s.realignedTo e u =
      { s with
        trk := s.trk.realigned e u.toCount
        zone := settledTable u.toCount.minute s.zone
        dec :=
          { s.dec with
            openMinute :=
              some ⟨u.toCount.minute, List.replicate (u.toCount.second + 1) unobservedEntry, [], 0⟩ }
        ev := (s.realignedTo e u).ev } := by
  unfold State.realignedTo
  rw [settleZone_frame, settleZone_zone]
  rfl

theorem State.realignedTo_latched : (s.realignedTo e u).latched .realigned = true :=
  settleZone_keeps_latched _ _ _ _ (State.raise_latches _ _)

theorem State.realignedTo_settlesTo (h : s.zoneOk) :
    s.settlesTo u.toCount.minute s.pastEntry (s.realignedTo e u) := by
  refine State.settlesTo_of_start (s' := { s with trk := s.trk.realigned e u.toCount }.raise .realigned) ?_ rfl
    (State.raise_raises (e := .realigned) (f := .zoneApplied) _ nofun)
  exact State.settlesTo_of_eq (settleZone_settlesTo _ _ _ h) rfl rfl

end Moved

/-! ### The lines and the decoder's record of them (R127) -/

/-- From `s` to `t` the decoder has recorded what changed of the bus and of the loop, at the instant `i`, and nothing else. -/
def State.linesRecorded (i : Instant) (s t : State) : Prop :=
  t.dec =
    { s.dec with
      busTrace := s.dec.busTrace ++ (if t.keying.own = s.keying.own then [] else [⟨i, busLines t.keying⟩])
      loopTrace := s.dec.loopTrace ++ (if t.keying.loop = s.keying.loop then [] else [⟨i, t.keying.loop⟩]) }

theorem State.linesRecorded_refl (i : Instant) (s : State) : s.linesRecorded i s := by
  simp [State.linesRecorded]

theorem State.driveBus_linesRecorded (i : Instant) (l : KeyingLines) (s : State) :
    s.linesRecorded i (s.driveBus i l) := by
  simp [State.linesRecorded, State.driveBus_eq, busLines]

theorem State.driveLoop_linesRecorded (i : Instant) (l : KeyingLines) (s : State) :
    s.linesRecorded i (s.driveLoop i l) := by
  simp [State.linesRecorded, State.driveLoop_eq]

theorem State.putLines_linesRecorded (i : Instant) (l : KeyingLines) (s : State) :
    s.linesRecorded i (s.putLines i l) := by
  unfold State.putLines
  split
  · exact s.driveBus_linesRecorded i l
  · exact s.driveLoop_linesRecorded i l
  · exact s.linesRecorded_refl i

theorem State.releaseKeying_linesRecorded (i : Instant) (s : State) : s.linesRecorded i (s.releaseKeying i) := by
  simp [State.linesRecorded, State.releaseKeying, State.driveBus_eq, State.driveLoop_eq, busLines]

theorem State.putLines_keying (i : Instant) (l : KeyingLines) (s : State) :
    (s.putLines i l).keying =
      { s.keying with
        own := if s.keying.out = .bus then l else s.keying.own
        loop := if s.keying.out = .loop then l else s.keying.loop } := by
  unfold State.putLines
  split
  next hout => simp [hout]
  next hout => simp [hout]
  next hout =>
    have hbus : s.keying.out ≠ .bus := by simp [hout]
    have hloop : s.keying.out ≠ .loop := by simp [hout]
    rw [if_neg hbus, if_neg hloop]

/-! ### CURRENT at a realign (R66) -/

theorem realignDraft_of_none (m : Nat) (s : State) (h : s.current = none) : realignDraft m s = s := by
  simp [realignDraft, h]

theorem realignDraft_of_kept (d : Draft) (s : State) (h : s.current = some d) :
    realignDraft d.minute s =
      if s.keying.nextTick = 0 then s
      else s.putLines (s.trk.lastEdge + 5000) (patternLines (some d) s.trk.second (s.keying.nextTick - 1)) := by
  cases htick : s.keying.nextTick <;> simp [realignDraft, State.patternAt, ms, h, htick]

theorem realignDraft_of_discarded (m : Nat) (d : Draft) (s : State) (h : s.current = some d) (hm : d.minute ≠ m) :
    realignDraft m s =
      State.releaseKeying (s.trk.lastEdge + 5000)
        { s with
          current := none
          curRec := none
          keying := { s.keying with out := if s.keying.out = .bus then .none else s.keying.out } } := by
  simp [realignDraft, ms, h, hm]

/-- Of what a realign decides about CURRENT nothing but the draft, its record and the lines is seen. -/
theorem realignDraft_frame (m : Nat) (s : State) :
    realignDraft m s =
      { s with
        current := (realignDraft m s).current
        curRec := (realignDraft m s).curRec
        keying := (realignDraft m s).keying
        dec := (realignDraft m s).dec } := by
  obtain ⟨c, r, k, d, h⟩ : ∃ c r k d, realignDraft m s = { s with current := c, curRec := r, keying := k, dec := d } := by
    cases hcurrent : s.current with
    | none => exact ⟨_, _, _, _, realignDraft_of_none m s hcurrent⟩
    | some d =>
      by_cases hm : d.minute = m
      · subst hm
        rw [realignDraft_of_kept d s hcurrent]
        split
        · exact ⟨_, _, _, _, rfl⟩
        · exact ⟨_, _, _, _, State.putLines_frame _ _ s⟩
      · rw [realignDraft_of_discarded m d s hcurrent hm]
        exact ⟨_, _, _, _, (State.releaseKeying_frame _ _).trans rfl⟩
  rw [h]

theorem realignDraft_linesRecorded (m : Nat) (s : State) :
    s.linesRecorded (s.trk.lastEdge + 5000) (realignDraft m s) := by
  cases hcurrent : s.current with
  | none => rw [realignDraft_of_none m s hcurrent]; exact s.linesRecorded_refl _
  | some d =>
    by_cases hm : d.minute = m
    · subst hm
      rw [realignDraft_of_kept d s hcurrent]
      split
      · exact s.linesRecorded_refl _
      · exact s.putLines_linesRecorded _ _
    · rw [realignDraft_of_discarded m d s hcurrent hm]
      exact State.releaseKeying_linesRecorded _ _

/-- The other units' drive of the keying bus is not the unit's to change. -/
theorem realignDraft_peer (m : Nat) (s : State) : (realignDraft m s).keying.peer = s.keying.peer := by
  cases hcurrent : s.current with
  | none => rw [realignDraft_of_none m s hcurrent]
  | some d =>
    by_cases hm : d.minute = m
    · subst hm
      rw [realignDraft_of_kept d s hcurrent]
      split
      · rfl
      · rw [State.putLines_keying]
    · rw [realignDraft_of_discarded m d s hcurrent hm, State.releaseKeying_keying]

theorem realignDraft_parts_of_kept (d : Draft) (s : State) (h : s.current = some d) :
    (realignDraft d.minute s).current = some d ∧ (realignDraft d.minute s).curRec = s.curRec
      ∧ (realignDraft d.minute s).keying =
          if s.keying.nextTick = 0 then s.keying
          else
            { s.keying with
              own :=
                if s.keying.out = .bus then patternLines (some d) s.trk.second (s.keying.nextTick - 1) else s.keying.own
              loop :=
                if s.keying.out = .loop then patternLines (some d) s.trk.second (s.keying.nextTick - 1)
                else s.keying.loop } := by
  rw [realignDraft_of_kept d s h]
  split
  · exact ⟨h, rfl, rfl⟩
  · refine ⟨?_, ?_, State.putLines_keying _ _ _⟩
    · rw [State.putLines_frame]
      exact h
    · rw [State.putLines_frame]

theorem realignDraft_parts_of_discarded (m : Nat) (d : Draft) (s : State) (h : s.current = some d) (hm : d.minute ≠ m) :
    (realignDraft m s).current = none ∧ (realignDraft m s).curRec = none
      ∧ (realignDraft m s).keying.own = linesReleased ∧ (realignDraft m s).keying.loop = linesReleased
      ∧ (realignDraft m s).keying.out ≠ .bus := by
  rw [realignDraft_of_discarded m d s h hm, State.releaseKeying_current, State.releaseKeying_curRec,
    State.releaseKeying_keying]
  refine ⟨rfl, rfl, rfl, rfl, ?_⟩
  dsimp only
  split
  · nofun
  · assumption

/-! ### The whole realign -/

/-- The state after a realign onto edge `e` with reference time `u`. -/
def State.afterRealign (e : Instant) (u : UtcTime) (s : State) : State :=
  realignDraft u.toCount.minute (s.realignedTo e u)

theorem realign_of_target (s : State) (e : Instant) (u : UtcTime) (hdue : s.trk.realignDue = true)
    (harmed : s.trk.armed = true) (href : s.trk.refState = .stepping) (htarget : s.trk.realignTarget = some (e, u)) :
    realign s = s.afterRealign e u := by
  simp only [realign, hdue, harmed, href, htarget, and_self, if_true]
  rfl

section Whole
variable (e : Instant) (u : UtcTime) (s : State)

theorem State.afterRealign_frame :
    s.afterRealign e u =
      { s with
        trk := s.trk.realigned e u.toCount
        zone := settledTable u.toCount.minute s.zone
        current := (s.afterRealign e u).current
        curRec := (s.afterRealign e u).curRec
        keying := (s.afterRealign e u).keying
        dec := (s.afterRealign e u).dec
        ev := (s.realignedTo e u).ev } := by
  have hmoved := s.realignedTo_frame e u
  have hdraft : s.afterRealign e u = _ := realignDraft_frame u.toCount.minute (s.realignedTo e u)
  change _ = { s.realignedTo e u with
    current := (s.afterRealign e u).current
    curRec := (s.afterRealign e u).curRec
    keying := (s.afterRealign e u).keying
    dec := (s.afterRealign e u).dec } at hdraft
  generalize s.afterRealign e u = t at *
  generalize s.realignedTo e u = w at *
  rw [hmoved] at hdraft
  exact hdraft

/-- The decoder after a realign: the open minute begun anew (R131), and each change of the lines recorded (R127). -/
theorem State.afterRealign_dec :
    (s.afterRealign e u).dec =
      { s.dec with
        openMinute := some ⟨u.toCount.minute, List.replicate (u.toCount.second + 1) unobservedEntry, [], 0⟩
        busTrace :=
          s.dec.busTrace
            ++ (if (s.afterRealign e u).keying.own = s.keying.own then []
              else [⟨s.trk.lastEdge + 5000, busLines (s.afterRealign e u).keying⟩])
        loopTrace :=
          s.dec.loopTrace
            ++ (if (s.afterRealign e u).keying.loop = s.keying.loop then []
              else [⟨s.trk.lastEdge + 5000, (s.afterRealign e u).keying.loop⟩]) } := by
  have hmoved := s.realignedTo_frame e u
  have hlines : State.linesRecorded _ _ (s.afterRealign e u) :=
    realignDraft_linesRecorded u.toCount.minute (s.realignedTo e u)
  generalize s.afterRealign e u = t at *
  rw [hmoved] at hlines
  exact hlines

theorem State.afterRealign_peer : (s.afterRealign e u).keying.peer = s.keying.peer := by
  rw [State.afterRealign, realignDraft_peer, State.realignedTo_frame]

theorem State.afterRealign_latched (ev : Event) : (s.afterRealign e u).latched ev = (s.realignedTo e u).latched ev :=
  State.latched_of_ev (congrArg State.ev (s.afterRealign_frame e u)) ev

theorem State.afterRealign_of_none (h : s.current = none) :
    (s.afterRealign e u).current = none ∧ (s.afterRealign e u).curRec = s.curRec
      ∧ (s.afterRealign e u).keying = s.keying := by
  have hmoved := s.realignedTo_frame e u
  have hcurrent : (s.realignedTo e u).current = none := (congrArg State.current hmoved).trans h
  rw [State.afterRealign, realignDraft_of_none _ _ hcurrent]
  refine ⟨hcurrent, ?_, ?_⟩
  · rw [hmoved]
  · rw [hmoved]

theorem State.afterRealign_of_kept (d : Draft) (h : s.current = some d) (hm : d.minute = u.toCount.minute) :
    (s.afterRealign e u).current = some d ∧ (s.afterRealign e u).curRec = s.curRec
      ∧ (s.afterRealign e u).keying =
          if s.keying.nextTick = 0 then s.keying
          else
            { s.keying with
              own :=
                if s.keying.out = .bus then patternLines (some d) u.toCount.second (s.keying.nextTick - 1)
                else s.keying.own
              loop :=
                if s.keying.out = .loop then patternLines (some d) u.toCount.second (s.keying.nextTick - 1)
                else s.keying.loop } := by
  have hmoved := s.realignedTo_frame e u
  have hparts := realignDraft_parts_of_kept d (s.realignedTo e u) ((congrArg State.current hmoved).trans h)
  rw [State.afterRealign, ← hm]
  generalize realignDraft d.minute (s.realignedTo e u) = t at *
  rw [hmoved] at hparts
  exact hparts

theorem State.afterRealign_of_discarded (d : Draft) (h : s.current = some d) (hm : d.minute ≠ u.toCount.minute) :
    (s.afterRealign e u).current = none ∧ (s.afterRealign e u).curRec = none
      ∧ (s.afterRealign e u).keying.own = linesReleased ∧ (s.afterRealign e u).keying.loop = linesReleased
      ∧ (s.afterRealign e u).keying.out ≠ .bus :=
  realignDraft_parts_of_discarded _ d _ ((congrArg State.current (s.realignedTo_frame e u)).trans h) hm

theorem State.afterRealign_settlesTo (h : s.zoneOk) :
    s.settlesTo u.toCount.minute s.pastEntry (s.afterRealign e u) :=
  State.settlesTo_of_eq (s.realignedTo_settlesTo e u h)
    ((congrArg State.zone (s.afterRealign_frame e u)).trans (congrArg State.zone (s.realignedTo_frame e u)).symm)
    (s.afterRealign_latched e u _)

end Whole
end Sys2Proof.Machine

open Sys2Proof Sys2Proof.Machine

/-- Settles O23: the realign moves the tracker, settles the table and begins the open minute (`State.realignedTo`), and then
decides about CURRENT (`realignDraft`); the decoder's record follows from the lines before and after. -/
theorem realignMovesTheCountAndTheDraft : Obligations.RealignMovesTheCountAndTheDraft := by
  intro s e u hrun hdue harmed href hedge
  have htarget : s.trk.realignTarget = some (e, u) := by
    obtain ⟨o, ho, rfl, hintime, p, v, hp, hv, rfl⟩ | ⟨hlate, p, hp, rfl, hu⟩ := hedge
    · exact s.trk.realignTarget_of_open o p v ho hintime hp hv
    · exact s.trk.realignTarget_of_judged p u hlate hp hu
  refine ⟨s.afterRealign e u, ?_, ?_⟩
  · rw [exec_realign_of_running s hrun, realign_of_target s e u hdue harmed href htarget]
  have hframe := s.afterRealign_frame e u
  have hdec := s.afterRealign_dec e u
  have hpeer := s.afterRealign_peer e u
  have hlatched := (s.afterRealign_latched e u .realigned).trans (s.realignedTo_latched e u)
  have hsettles := s.afterRealign_settlesTo e u
  have hnone := s.afterRealign_of_none e u
  have hkept := s.afterRealign_of_kept e u
  have hdiscarded := s.afterRealign_of_discarded e u
  generalize s.afterRealign e u = t at *
  have htrk : t.trk = s.trk.realigned e u.toCount := congrArg State.trk hframe
  rw [htrk]
  refine ⟨rfl, rfl, rfl, rfl, rfl, rfl, rfl, rfl, rfl, rfl, relabelLast_eq _ _, hlatched, congrArg State.zone hframe,
    hsettles, congrArg Decoder.openMinute hdec, ?_, hnone, rfl, ?_, congrArg Decoder.loopTrace hdec,
    (congrArg Decoder.evidence hdec :), ?_⟩
  · intro d hd
    split
    next hm => exact hkept d hd hm
    next hm => exact hdiscarded d hd hm
  · rw [← hpeer]
    exact congrArg Decoder.busTrace hdec
  · rw [hframe]
    exact ⟨rfl, rfl, rfl, rfl, rfl, rfl, rfl, rfl, rfl, rfl⟩
end

section
/-! SUPPORT. The zone table as a list in order of instant (R38): entries at one instant are one, and what "at most one entry is
past" says of its members. -/

namespace Sys2Proof.Machine

/-- The table is in order of instant, no two entries at one instant (R38). -/
def inOrder (table : List ZoneEntry) : Prop := table.Pairwise fun a b => a.start < b.start

/-- At most one entry has its instant at or before minute `c` (R38). -/
def onePastAt (c : Nat) (table : List ZoneEntry) : Prop :=
  ∀ x ∈ table, ∀ y ∈ table, x.start ≤ c → y.start ≤ c → x = y

section Table
variable {c : Nat} {table shorter : List ZoneEntry}

theorem inOrder.eq_of_start_eq (h : inOrder table) {x y : ZoneEntry} (hx : x ∈ table) (hy : y ∈ table)
    (hxy : x.start = y.start) : x = y := by
  induction table with
  | nil => nomatch hx
  | cons first rest ih =>
    obtain ⟨hfirst, hrest⟩ := List.pairwise_cons.mp h
    rcases List.mem_cons.mp hx with rfl | hxrest <;> rcases List.mem_cons.mp hy with rfl | hyrest
    · rfl
    · exact absurd hxy (Nat.ne_of_lt (hfirst y hyrest))
    · exact absurd hxy.symm (Nat.ne_of_lt (hfirst x hxrest))
    · exact ih hrest hxrest hyrest

theorem inOrder.nodup (h : inOrder table) : table.Nodup := h.imp fun hlt heq => (Nat.ne_of_lt hlt) (congrArg _ heq)

theorem onePastAt.of_subset (h : onePastAt c table) (hsub : ∀ x ∈ shorter, x ∈ table) : onePastAt c shorter :=
  fun x hx y hy => h x (hsub x hx) y (hsub y hy)

/-- Counting the past entries of a table in order. -/
theorem onePastAt_iff (h : inOrder table) :
    onePastAt c table ↔ (table.filter fun e => decide (e.start ≤ c)).length ≤ 1 := by
  have hmem (x : ZoneEntry) : x ∈ table.filter (fun e => decide (e.start ≤ c)) ↔ x ∈ table ∧ x.start ≤ c := by
    simp
  have hnodup : (table.filter fun e => decide (e.start ≤ c)).Nodup := h.nodup.filter _
  generalize table.filter (fun e => decide (e.start ≤ c)) = past at *
  constructor
  · intro hone
    match past with
    | [] => exact Nat.zero_le _
    | [_] => exact Nat.le_refl _
    | a :: b :: rest =>
      obtain ⟨ha, hac⟩ := (hmem a).mp (by simp)
      obtain ⟨hb, hbc⟩ := (hmem b).mp (by simp)
      have hab : a = b := hone a ha b hb hac hbc
      simp [hab] at hnodup
  · intro hlength x hx y hy hxc hyc
    have hx' := (hmem x).mpr ⟨hx, hxc⟩
    have hy' := (hmem y).mpr ⟨hy, hyc⟩
    match past with
    | [] => nomatch hx'
    | [_] => exact (List.mem_singleton.mp hx').trans (List.mem_singleton.mp hy').symm
    | _ :: _ :: _ => simp at hlength

end Table

/-! ### The past entry (R38) -/

theorem State.pastOk_iff (s : State) (h : inOrder s.zone) :
    s.pastOk ↔ (s.trk.countValid = true → onePastAt s.trk.minute s.zone) :=
  forall_congr' fun _ => (onePastAt_iff h).symm

section Past
variable {s : State}

theorem State.pastEntry_eq_some_iff (hvalid : s.trk.countValid = true) (hone : onePastAt s.trk.minute s.zone)
    (p : ZoneEntry) : s.pastEntry = some p ↔ p ∈ s.zone ∧ p.start ≤ s.trk.minute := by
  simp only [State.pastEntry, hvalid, if_true]
  constructor
  · intro h
    exact ⟨List.mem_of_find?_eq_some h, of_decide_eq_true (List.find?_some h :)⟩
  · rintro ⟨hp, hpc⟩
    cases hfind : s.zone.find? fun e => decide (e.start ≤ s.trk.minute) with
    | none => exact absurd (decide_eq_true hpc) (List.find?_eq_none.mp hfind p hp)
    | some q =>
      have hqc : q.start ≤ s.trk.minute := of_decide_eq_true (List.find?_some hfind :)
      rw [hone q (List.mem_of_find?_eq_some hfind) p hp hqc hpc]

theorem State.pastEntry_eq_none_iff (hvalid : s.trk.countValid = true) :
    s.pastEntry = none ↔ ∀ e ∈ s.zone, s.trk.minute < e.start := by
  simp [State.pastEntry, hvalid]

end Past
end Sys2Proof.Machine
end

section
/-! SUPPORT. Putting an entry into the zone table (R47): what the table then holds, and that it stays in order with at most one
past entry. -/

namespace Sys2Proof.Machine

section Insert
variable {c : Nat} {e p : ZoneEntry} {table : List ZoneEntry}

/-- No entry of the table has the instant. -/
def freeInstant (n : Nat) (table : List ZoneEntry) : Prop := ∀ x ∈ table, x.start ≠ n

theorem mem_insertEntry (hfree : freeInstant e.start table) (x : ZoneEntry) :
    x ∈ insertEntry e table ↔ x = e ∨ x ∈ table := by
  simp only [insertEntry, List.mem_append, List.mem_filter, List.mem_singleton, decide_eq_true_eq]
  constructor
  · rintro ((⟨hx, -⟩ | rfl) | ⟨hx, -⟩)
    · exact .inr hx
    · exact .inl rfl
    · exact .inr hx
  · rintro (rfl | hx)
    · exact .inl (.inr rfl)
    · obtain hlt | hgt := Nat.lt_or_gt_of_ne (hfree x hx)
      · exact .inl (.inl ⟨hx, hlt⟩)
      · exact .inr ⟨hx, hgt⟩

theorem insertEntry_inOrder (h : inOrder table) : inOrder (insertEntry e table) := by
  refine List.pairwise_append.mpr ⟨List.pairwise_append.mpr ⟨h.filter _, List.pairwise_singleton _ _, ?_⟩, h.filter _, ?_⟩
  · intro a ha b hb
    obtain rfl := List.mem_singleton.mp hb
    simpa using (List.mem_filter.mp ha).2
  · intro a ha b hb
    have heb : e.start < b.start := by simpa using (List.mem_filter.mp hb).2
    rcases List.mem_append.mp ha with ha | ha
    · have hae : a.start < e.start := by simpa using (List.mem_filter.mp ha).2
      exact Nat.lt_trans hae heb
    · rwa [List.mem_singleton.mp ha]

theorem insertEntry_length (h : inOrder table) (hfree : freeInstant e.start table) :
    (insertEntry e table).length = table.length + 1 := by
  have hnew : e ∉ table := fun he => hfree e he rfl
  have hperm : (insertEntry e table).Perm (e :: table) := by
    refine (List.perm_ext_iff_of_nodup (insertEntry_inOrder h).nodup (List.nodup_cons.mpr ⟨hnew, h.nodup⟩)).mpr ?_
    intro x
    rw [mem_insertEntry hfree, List.mem_cons]
  exact hperm.length_eq

/-- A new entry after minute `c`, or one in a table without a past entry, leaves at most one past. -/
theorem insertEntry_onePastAt (hfree : freeInstant e.start table) (hone : onePastAt c table)
    (h : c < e.start ∨ ∀ x ∈ table, c < x.start) : onePastAt c (insertEntry e table) := by
  intro x hx y hy hxc hyc
  rw [mem_insertEntry hfree] at hx hy
  rcases hx with rfl | hx <;> rcases hy with rfl | hy
  · rfl
  · rcases h with h | h
    · omega
    · have := h y hy; omega
  · rcases h with h | h
    · omega
    · have := h x hx; omega
  · exact hone x hx y hy hxc hyc

/-! ### In place of the past entry -/

theorem mem_without (x : ZoneEntry) : x ∈ table.filter (fun e => e != p) ↔ x ∈ table ∧ x ≠ p := by
  simp

theorem without_length (h : inOrder table) (hp : p ∈ table) :
    (table.filter fun e => e != p).length + 1 = table.length := by
  have hpos : 0 < table.length := List.length_pos_of_mem hp
  rw [← h.nodup.erase_eq_filter, List.length_erase_of_mem hp]
  omega

/-- Without the past entry the table has none. -/
theorem without_past (hone : onePastAt c table) (hp : p ∈ table) (hpc : p.start ≤ c) :
    ∀ x ∈ table.filter (fun e => e != p), c < x.start := by
  intro x hx
  obtain ⟨hx, hne⟩ := mem_without x |>.mp hx
  exact Nat.lt_of_not_le fun hxc => hne (hone x hx p hp hxc hpc)

end Insert
end Sys2Proof.Machine
end

section
/-! SUPPORT. ZONE ADD and ZONE REMOVE (R47, R48): one equation per case, and what a performed one leaves in the table. -/

namespace Sys2Proof.Machine

/-- The entry that a ZONE ADD of the instant `n` with the state `z` carries (R176). -/
def zoneEntryOf (n : Nat) (z : Byte) : ZoneEntry := ⟨n, if z = 0 then .standard else .summer⟩

/-- Cases 1 to 4 of R47: ZONE ADD is refused RANGE. -/
def State.zoneAddRefused (n : Nat) (z : Byte) (s : State) : Prop :=
  52595999 < n ∨ 1 < z.toNat ∨ (∃ e ∈ s.zone, e.start = n) ∨ (n = s.trk.minute + 1 ∨ n = s.trk.minute + 2)
    ∨ ∃ p, s.pastEntry = some p ∧ n ≤ s.trk.minute ∧ n < p.start

theorem zoneStateOf_eq (z : Byte) :
    zoneStateOf z = if 1 < z.toNat then none else some (if z = 0 then .standard else .summer) := by
  have hrange : 1 < z.toNat ↔ z ≠ 0 ∧ z ≠ 1 := by bv_omega
  by_cases hzero : z = 0
  · simp [zoneStateOf, hzero]
  · by_cases hone : z = 1
    · simp [zoneStateOf, hone]
    · simp only [zoneStateOf, hrange, hzero, hone, ne_eq, not_false_eq_true, and_self, if_true, if_false]

section Add
variable {s : State} {n : Nat} {z : Byte}

theorem any_start_eq_iff (n : Nat) (table : List ZoneEntry) :
    (table.any fun e => e.start == n) = true ↔ ∃ e ∈ table, e.start = n := by
  simp

/-! ### The cases of ZONE ADD -/

theorem zoneAddTable_of_invalid (hvalid : s.trk.countValid = false) : zoneAddTable s n z = (.state, s.zone) := by
  simp [zoneAddTable, hvalid]

theorem zoneAddTable_of_refused (hvalid : s.trk.countValid = true) (h : s.zoneAddRefused n z) :
    zoneAddTable s n z = (.range, s.zone) := by
  simp only [zoneAddTable, hvalid, zoneStateOf_eq, any_start_eq_iff]
  by_cases hstate : 1 < z.toNat
  · simp only [hstate, if_true]
  simp only [hstate, if_false]
  split
  · rfl
  split
  · rfl
  split
  · rfl
  next hlast htaken hnear =>
    obtain hlast' | hstate' | htaken' | hnear' | ⟨p, hp, hnc, hnp⟩ := h
    · contradiction
    · contradiction
    · contradiction
    · contradiction
    · simp [hp, hnc, hnp]

/-- Where no case refuses RANGE, what is left to decide is whether there is a past entry and whether there is room. -/
theorem zoneAddTable_of_not_refused (hvalid : s.trk.countValid = true) (h : ¬s.zoneAddRefused n z) :
    zoneAddTable s n z =
      match s.pastEntry, decide (n ≤ s.trk.minute) with
      | some p, true => (.done, insertEntry (zoneEntryOf n z) (s.zone.filter fun e => e != p))
      | _, _ => if 16 ≤ s.zone.length then (.full, s.zone) else (.done, insertEntry (zoneEntryOf n z) s.zone) := by
  have hlast : ¬52595999 < n := fun hn => h (.inl hn)
  have hstate : ¬1 < z.toNat := fun hz => h (.inr (.inl hz))
  have htaken : ¬∃ e ∈ s.zone, e.start = n := fun he => h (.inr (.inr (.inl he)))
  have hnear : ¬(n = s.trk.minute + 1 ∨ n = s.trk.minute + 2) := fun hn => h (.inr (.inr (.inr (.inl hn))))
  simp only [zoneAddTable, hvalid, zoneStateOf_eq, any_start_eq_iff, lastMinute, hlast, hstate, htaken, hnear, if_false]
  cases hp : s.pastEntry with
  | none => rfl
  | some p =>
    by_cases hnc : n ≤ s.trk.minute
    · have hnot : ¬n < p.start := fun hnp => h (.inr (.inr (.inr (.inr ⟨p, hp, hnc, hnp⟩))))
      simp only [hnc, hnot, decide_true, if_false]
      rfl
    · simp only [hnc, decide_false]
      rfl

/-- Case 5 of R47. -/
theorem zoneAddTable_of_past {p : ZoneEntry} (hvalid : s.trk.countValid = true) (h : ¬s.zoneAddRefused n z)
    (hp : s.pastEntry = some p) (hnc : n ≤ s.trk.minute) :
    zoneAddTable s n z = (.done, insertEntry (zoneEntryOf n z) (s.zone.filter fun e => e != p)) := by
  rw [zoneAddTable_of_not_refused hvalid h, hp, decide_eq_true hnc]

/-- Cases 6 and 7 of R47. -/
theorem zoneAddTable_of_open (hvalid : s.trk.countValid = true) (h : ¬s.zoneAddRefused n z)
    (hopen : s.pastEntry = none ∨ s.trk.minute < n) :
    zoneAddTable s n z =
      if 16 ≤ s.zone.length then (.full, s.zone) else (.done, insertEntry (zoneEntryOf n z) s.zone) := by
  rw [zoneAddTable_of_not_refused hvalid h]
  obtain hnone | hlater := hopen
  · rw [hnone]
  · rw [decide_eq_false (Nat.not_le.mpr hlater)]
    cases s.pastEntry <;> rfl

theorem State.freeInstant_of_not_refused (h : ¬s.zoneAddRefused n z) : freeInstant n s.zone :=
  fun x hx hxn => h (.inr (.inr (.inl ⟨x, hx, hxn⟩)))

/-! ### What a performed ZONE ADD leaves -/

/-- Case 5: the new entry stands in the place of the past entry, and is the past entry. -/
theorem zoneAdd_replaces (horder : inOrder s.zone) (hvalid : s.trk.countValid = true)
    (hone : onePastAt s.trk.minute s.zone) (h : ¬s.zoneAddRefused n z) {p : ZoneEntry} (hp : s.pastEntry = some p)
    (hnc : n ≤ s.trk.minute) :
    ∃ table, zoneAddTable s n z = (.done, table)
      ∧ (∀ e, e ∈ table ↔ (e = zoneEntryOf n z ∨ (e ∈ s.zone ∧ e ≠ p)))
      ∧ onePastAt s.trk.minute table ∧ inOrder table ∧ table.length = s.zone.length := by
  obtain ⟨hmem, hpc⟩ := (State.pastEntry_eq_some_iff hvalid hone p).mp hp
  have hrest : inOrder (s.zone.filter fun e => e != p) := horder.filter _
  have hsub (x : ZoneEntry) (hx : x ∈ s.zone.filter fun e => e != p) : x ∈ s.zone := (List.mem_filter.mp hx).1
  have hfree : freeInstant n (s.zone.filter fun e => e != p) :=
    fun x hx => State.freeInstant_of_not_refused h x (hsub x hx)
  refine ⟨_, zoneAddTable_of_past hvalid h hp hnc, fun e => ?_, ?_, insertEntry_inOrder hrest, ?_⟩
  · rw [mem_insertEntry hfree, mem_without]
  · exact insertEntry_onePastAt hfree (hone.of_subset hsub) (.inr (without_past hone hmem hpc))
  · rw [insertEntry_length hrest hfree, without_length horder hmem]

/-- Case 7: the new entry is added, and is the past entry when its instant has come. -/
theorem zoneAdd_inserts (horder : inOrder s.zone) (hvalid : s.trk.countValid = true)
    (hone : onePastAt s.trk.minute s.zone) (h : ¬s.zoneAddRefused n z)
    (hopen : s.pastEntry = none ∨ s.trk.minute < n) (hroom : s.zone.length < 16) :
    ∃ table, zoneAddTable s n z = (.done, table)
      ∧ (∀ e, e ∈ table ↔ (e = zoneEntryOf n z ∨ e ∈ s.zone))
      ∧ onePastAt s.trk.minute table ∧ inOrder table ∧ table.length = s.zone.length + 1 := by
  have hfree : freeInstant n s.zone := State.freeInstant_of_not_refused h
  refine ⟨_, ?_, mem_insertEntry hfree, ?_, insertEntry_inOrder horder, insertEntry_length horder hfree⟩
  · rw [zoneAddTable_of_open hvalid h hopen, if_neg (Nat.not_le.mpr hroom)]
  · rw [State.pastEntry_eq_none_iff hvalid] at hopen
    exact insertEntry_onePastAt hfree hone hopen.symm

end Add

/-! ### The cases of ZONE REMOVE -/

section Remove
variable {s : State} {n : Nat}

theorem zoneRemoveTable_of_invalid (hvalid : s.trk.countValid = false) : zoneRemoveTable s n = (.state, s.zone) := by
  simp [zoneRemoveTable, hvalid]

theorem zoneRemoveTable_of_refused (hvalid : s.trk.countValid = true)
    (h : (¬∃ e ∈ s.zone, e.start = n) ∨ n = s.trk.minute + 1 ∨ n = s.trk.minute + 2) :
    zoneRemoveTable s n = (.range, s.zone) := by
  by_cases htaken : ∃ e ∈ s.zone, e.start = n
  · have hnear := h.resolve_left (not_not_intro htaken)
    simp [zoneRemoveTable, hvalid, hnear]
  · rw [← any_start_eq_iff, Bool.not_eq_true] at htaken
    simp [zoneRemoveTable, hvalid, htaken]

theorem zoneRemoveTable_of_taken (hvalid : s.trk.countValid = true) (htaken : ∃ e ∈ s.zone, e.start = n)
    (hnear : ¬(n = s.trk.minute + 1 ∨ n = s.trk.minute + 2)) :
    zoneRemoveTable s n = (.done, s.zone.filter fun e => decide (e.start ≠ n)) := by
  have hfilter : (s.zone.filter fun e => e.start != n) = s.zone.filter fun e => decide (e.start ≠ n) :=
    List.filter_congr fun e _ => by rw [Bool.eq_iff_iff, bne_iff_ne, decide_eq_true_eq]
  rw [← any_start_eq_iff] at htaken
  simp only [zoneRemoveTable, hvalid, htaken, hnear, hfilter, Bool.not_true, Bool.false_eq_true, if_false]

/-- A ZONE REMOVE takes nothing into the table. -/
theorem zoneRemoveTable_sublist (s : State) (n : Nat) : (zoneRemoveTable s n).2.Sublist s.zone := by
  unfold zoneRemoveTable
  dsimp only
  split
  · exact List.Sublist.refl _
  · split
    · exact List.Sublist.refl _
    · split
      · exact List.Sublist.refl _
      · exact List.filter_sublist

end Remove

/-! ### The two rows -/

theorem exec_zoneAdd_of_hears {s : State} (h : s.hears) (start : Word32) (z : Byte) :
    exec (.zoneAdd start z) s =
      .next (respond 0x20 (zoneAddTable s start.toNat z).1 []
        { s with zone := (zoneAddTable s start.toNat z).2 }) :=
  congrArg Host.Outcome.next (command_of_hears (.zoneAdd start z) s h)

theorem exec_zoneRemove_of_hears {s : State} (h : s.hears) (start : Word32) :
    exec (.zoneRemove start) s =
      .next (respond 0x21 (zoneRemoveTable s start.toNat).1 []
        { s with zone := (zoneRemoveTable s start.toNat).2 }) :=
  congrArg Host.Outcome.next (command_of_hears (.zoneRemove start) s h)

end Sys2Proof.Machine

open Sys2Proof Sys2Proof.Machine

/-- Settles O53, case by case of R47 and R48; what a performed ZONE ADD leaves is `zoneAdd_replaces` and `zoneAdd_inserts`. -/
theorem zoneAddAndRemove : Obligations.ZoneAddAndRemove := by
  intro start z s hhears ⟨horder, _⟩ hpast c n taken near add remove refused
  have hadd {st : Status} {table : List ZoneEntry} (heq : zoneAddTable s n z = (st, table)) : add st table := by
    show exec (.zoneAdd start z) s = _
    rw [exec_zoneAdd_of_hears hhears, heq]
  have hremove {st : Status} {table : List ZoneEntry} (heq : zoneRemoveTable s n = (st, table)) : remove st table := by
    show exec (.zoneRemove start) s = _
    rw [exec_zoneRemove_of_hears hhears, heq]
  refine ⟨fun hvalid => ⟨hadd (zoneAddTable_of_invalid hvalid), hremove (zoneRemoveTable_of_invalid hvalid)⟩,
    fun hvalid => ?_⟩
  have hone : onePastAt s.trk.minute s.zone := (s.pastOk_iff horder).mp hpast hvalid
  have hpastOf (table : List ZoneEntry) (hone' : onePastAt s.trk.minute table) (p : ZoneEntry) :
      ({ s with zone := table } : State).pastEntry = some p ↔ p ∈ table ∧ p.start ≤ s.trk.minute :=
    State.pastEntry_eq_some_iff (s := { s with zone := table }) hvalid hone' p
  refine ⟨fun h => hadd (zoneAddTable_of_refused hvalid h), fun h p hp hnc => ?_, fun h hopen hfull => ?_,
    fun h hopen hroom => ?_, fun h => hremove (zoneRemoveTable_of_refused hvalid h),
    fun htaken hnear => hremove (zoneRemoveTable_of_taken hvalid htaken hnear)⟩
  · obtain ⟨table, heq, hmem, hone', horder', hlength⟩ := zoneAdd_replaces horder hvalid hone h hp hnc
    exact ⟨table, hadd heq, hmem, (hpastOf table hone' _).mpr ⟨(hmem _).mpr (.inl rfl), hnc⟩, horder', hlength⟩
  · refine hadd ((zoneAddTable_of_open hvalid h hopen).trans (if_pos ?_))
    omega
  · obtain ⟨table, heq, hmem, hone', horder', hlength⟩ := zoneAdd_inserts horder hvalid hone h hopen hroom
    refine ⟨table, hadd heq, hmem, ?_, horder', hlength⟩
    split
    next hnc => exact (hpastOf table hone' _).mpr ⟨(hmem _).mpr (.inl rfl), hnc⟩
    next hnc =>
      refine Option.ext fun p => ?_
      rw [hpastOf table hone' p, State.pastEntry_eq_some_iff hvalid hone p, hmem]
      refine and_congr_left fun hpc => or_iff_right ?_
      rintro rfl
      exact hnc hpc
end

section
/-! SUPPORT. What falls due at a minute boundary (R45) and what a settling (R46) do to the order of the zone table and its past
entry. -/

namespace Sys2Proof.Machine

/-! ### An entry falling due (R45) -/

/-- The zone table when minute `c` begins. -/
def dueTable (c : Nat) (table : List ZoneEntry) : List ZoneEntry :=
  if table.any fun e => e.start == c then table.filter fun e => decide (c ≤ e.start) else table

theorem zoneDue_zone (c : Nat) (s : State) : (zoneDue c s).zone = dueTable c s.zone := by
  unfold zoneDue dueTable
  split <;> rfl

theorem zoneDue_latches (c : Nat) (s : State) (h : ∃ e ∈ s.zone, e.start = c) :
    (zoneDue c s).latched .zoneApplied = true := by
  rw [zoneDue, if_pos ((any_start_eq_iff c s.zone).mpr h)]
  exact State.raise_latches _ _

section Due
variable {c : Nat} {table : List ZoneEntry}

theorem dueTable_of_due (h : ∃ e ∈ table, e.start = c) :
    dueTable c table = table.filter fun e => decide (c ≤ e.start) :=
  if_pos ((any_start_eq_iff c table).mpr h)

theorem dueTable_of_not_due (h : freeInstant c table) : dueTable c table = table :=
  if_neg fun hany => have ⟨e, he, hec⟩ := (any_start_eq_iff c table).mp hany; h e he hec

theorem dueTable_sublist (c : Nat) (table : List ZoneEntry) : (dueTable c table).Sublist table := by
  unfold dueTable
  split
  · exact List.filter_sublist
  · exact List.Sublist.refl _

/-- When a minute begins, the entry that falls due takes the place of the past entry. -/
theorem dueTable_onePastAt (horder : inOrder table) (hone : onePastAt c table) :
    onePastAt (c + 1) (dueTable (c + 1) table) := by
  by_cases hdue : ∃ e ∈ table, e.start = c + 1
  · rw [dueTable_of_due hdue]
    intro x hx y hy hxc hyc
    simp only [List.mem_filter, decide_eq_true_eq] at hx hy
    exact horder.eq_of_start_eq hx.1 hy.1 ((Nat.le_antisymm hxc hx.2).trans (Nat.le_antisymm hy.2 hyc))
  · have hfree : freeInstant (c + 1) table := fun e he hec => hdue ⟨e, he, hec⟩
    rw [dueTable_of_not_due hfree]
    intro x hx y hy hxc hyc
    have := hfree x hx
    have := hfree y hy
    exact hone x hx y hy (by omega) (by omega)

end Due

/-! ### A settling (R46) -/

section Settled
variable {c : Nat} {table : List ZoneEntry}

theorem settledTable_subset (c : Nat) (h : inOrder table) : ∀ x ∈ settledTable c table, x ∈ table :=
  fun x hx => (((settledTable_spec c table h).1 x).mp hx).elim And.left And.left

theorem settledTable_inOrder (c : Nat) (h : inOrder table) : inOrder (settledTable c table) :=
  (settledTable_spec c table h).2

/-- At least the entries after the minute and the latest of the others are left, and no more than there were. -/
theorem settledTable_length (c : Nat) (table : List ZoneEntry) : (settledTable c table).length ≤ table.length := by
  have hlast (l : List ZoneEntry) : l.getLast?.toList.length ≤ l.length := by
    cases l with
    | nil => exact Nat.le_refl 0
    | cons a l => simp [List.getLast?_cons]
  have hsplit : table.length =
      (table.filter fun e => decide (e.start ≤ c)).length + (table.filter fun e => decide (c < e.start)).length := by
    rw [List.length_eq_countP_add_countP fun e : ZoneEntry => decide (e.start ≤ c), List.countP_eq_length_filter,
      List.countP_eq_length_filter]
    simp only [decide_eq_true_eq, Nat.not_le]
  have hpast := hlast (table.filter fun e => decide (e.start ≤ c))
  rw [settledTable, List.length_append]
  omega

/-- Of the entries at or before the minute a settling leaves the latest alone. -/
theorem settledTable_onePastAt (c : Nat) (h : inOrder table) : onePastAt c (settledTable c table) := by
  have hlatest (x : ZoneEntry) (hx : x ∈ settledTable c table) (hxc : x.start ≤ c) :
      ∀ y ∈ table, y.start ≤ c → y.start ≤ x.start := by
    obtain ⟨-, -, hx⟩ | ⟨-, hlater⟩ := ((settledTable_spec c table h).1 x).mp hx
    · exact hx
    · omega
  intro x hx y hy hxc hyc
  have hx' := settledTable_subset c h x hx
  have hy' := settledTable_subset c h y hy
  exact h.eq_of_start_eq hx' hy' (Nat.le_antisymm (hlatest y hy hyc x hx' hxc) (hlatest x hx hxc y hy' hyc))

end Settled

/-! ### The table after an own edge -/

theorem minuteBoundary_zone (m : Nat) (s : State) : (minuteBoundary m s).zone = dueTable m s.zone := by
  unfold minuteBoundary
  dsimp only
  rw [proofBegin_frame, handOver_frame, listenBoundary_frame]
  dsimp only
  rw [zoneDue_zone, proofJudge_frame, takeCredit_frame, countdowns_frame, closeAirMinute_frame]

/-- At a minute boundary an entry that falls due raises ZONE_APPLIED. -/
theorem minuteBoundary_latches_zoneApplied (m : Nat) (s : State) (h : ∃ e ∈ s.zone, e.start = m) :
    (minuteBoundary m s).latched .zoneApplied = true := by
  unfold minuteBoundary
  dsimp only
  rw [proofBegin_frame, handOver_frame, listenBoundary_frame]
  refine zoneDue_latches m _ ?_
  rw [proofJudge_frame, takeCredit_frame, countdowns_frame, closeAirMinute_frame]
  exact h

theorem Tracker.atEdge_minute (t : Tracker) :
    t.atEdge.minute = if t.boundaryNext then t.minute + 1 else t.minute := by
  cases hvalid : t.countValid with
  | true =>
    cases hlast : t.inLastSecond <;> simp [Tracker.atEdge, Tracker.boundaryNext, Tracker.nextCount, hvalid, hlast]
  | false => simp [Tracker.atEdge, Tracker.boundaryNext, hvalid]

theorem State.edgeCounted_zone (s : State) : s.edgeCounted.zone = s.zone := by
  rw [State.edgeCounted_frame]

theorem ownEdge_zone (s : State) :
    (ownEdge s).zone = if s.trk.boundaryNext then dueTable (s.trk.minute + 1) s.zone else s.zone := by
  have hend (t : State) : (proofReferenceCheck (beginSecond t)).zone = t.zone := by
    rw [proofReferenceCheck_frame]
    rfl
  cases hboundary : s.trk.boundaryNext with
  | true =>
    rw [ownEdge_of_boundary s hboundary, hend, keyEdge_frame, s.trk.atEdge_minute, hboundary]
    exact (minuteBoundary_zone _ _).trans (congrArg (dueTable _) s.edgeCounted_zone)
  | false =>
    cases hfreeze : s.trk.freezeNext with
    | true =>
      rw [ownEdge_of_freeze s hfreeze, hend, freezeEdge_frame, keyEdge_frame]
      exact s.edgeCounted_zone
    | false =>
      rw [ownEdge_of_plain s hboundary hfreeze, hend, keyEdge_frame]
      exact s.edgeCounted_zone

theorem ownEdge_latches_zoneApplied (s : State) (hboundary : s.trk.boundaryNext = true)
    (h : ∃ e ∈ s.zone, e.start = s.trk.minute + 1) : (ownEdge s).latched .zoneApplied = true := by
  have hend (t : State) (ht : t.latched .zoneApplied = true) :
      (proofReferenceCheck (beginSecond t)).latched .zoneApplied = true := by
    rw [proofReferenceCheck_eq]
    exact ht
  rw [← State.edgeCounted_zone] at h
  rw [ownEdge_of_boundary s hboundary, s.trk.atEdge_minute, if_pos hboundary]
  exact hend _ (keyEdge_latched _ _ _ (minuteBoundary_latches_zoneApplied _ _ h))

end Sys2Proof.Machine

open Sys2Proof Sys2Proof.Machine

/-- Settles O16: at a boundary the table is `dueTable` of it, and the entry that is due is the only one past in it. -/
theorem boundaryAppliesADueZoneEntry : Obligations.BoundaryAppliesADueZoneEntry := by
  intro s ⟨horder, _⟩ hpast ⟨hrun, hvalid, hlast⟩
  have hboundary : s.trk.boundaryNext = true := s.trk.boundaryNext_iff.mpr ⟨hvalid, hlast⟩
  have hone : onePastAt s.trk.minute s.zone := (s.pastOk_iff horder).mp hpast hvalid
  have hzone : (ownEdge s).zone = dueTable (s.trk.minute + 1) s.zone := by rw [ownEdge_zone, if_pos hboundary]
  refine ⟨_, exec_ownEdge_of_running s hrun, fun hfree => hzone.trans (dueTable_of_not_due hfree), fun e he hdue => ?_⟩
  have hvalid' : (ownEdge s).trk.countValid = true := by rw [ownEdge_trk]; exact hvalid
  have hminute : (ownEdge s).trk.minute = s.trk.minute + 1 := by
    rw [ownEdge_trk, s.trk.atEdge_minute, if_pos hboundary]
  have hone' : onePastAt (ownEdge s).trk.minute (ownEdge s).zone := by
    rw [hzone, hminute]
    exact dueTable_onePastAt horder hone
  have hfilter : dueTable (s.trk.minute + 1) s.zone = s.zone.filter fun x => decide (s.trk.minute + 1 ≤ x.start) :=
    dueTable_of_due ⟨e, he, hdue⟩
  refine ⟨?_, ?_, ?_⟩
  · rw [State.pastEntry_eq_some_iff hvalid' hone', hzone, hfilter, hminute, List.mem_filter, decide_eq_true_eq]
    exact ⟨⟨he, Nat.le_of_eq hdue.symm⟩, Nat.le_of_eq hdue⟩
  · exact ownEdge_latches_zoneApplied s hboundary ⟨e, he, hdue⟩
  · rw [hzone, hfilter]
    split
    next p hp =>
      obtain ⟨hmem, hpc⟩ := (State.pastEntry_eq_some_iff hvalid hone p).mp hp
      refine List.filter_congr fun x hx => decide_eq_decide.mpr ⟨?_, fun hne => ?_⟩
      · rintro hlater rfl
        omega
      · exact Nat.lt_of_not_le fun hxc => hne (hone x hx p hmem hxc hpc)
    next hnone =>
      rw [State.pastEntry_eq_none_iff hvalid] at hnone
      exact List.filter_eq_self.mpr fun x hx => decide_eq_true (hnone x hx)
end

section
/-! SUPPORT. The condition on the zone table (R38), operation by operation: the zone table, the validity of the count and its
minute are all that it reads, and few operations write them. -/

namespace Sys2Proof.Machine

/-- The table is in order, of 16 entries at most, and with the count valid one entry at most is past (R38). -/
structure State.zoneKept (s : State) : Prop where
  order : inOrder s.zone
  size : s.zone.length ≤ 16
  past : s.trk.countValid = true → onePastAt s.trk.minute s.zone

theorem State.zoneKept_iff (s : State) : s.zoneKept ↔ s.zoneOk ∧ s.pastOk := by
  constructor
  · intro ⟨horder, hsize, hpast⟩
    exact ⟨⟨horder, hsize⟩, (s.pastOk_iff horder).mpr hpast⟩
  · intro ⟨⟨horder, hsize⟩, hpast⟩
    exact ⟨horder, hsize, (s.pastOk_iff horder).mp hpast⟩

section Kept
variable {s t : State}

theorem State.zoneKept.of_same (h : s.zoneKept) (hz : t.zone = s.zone) (hv : t.trk.countValid = s.trk.countValid)
    (hm : t.trk.minute = s.trk.minute) : t.zoneKept := by
  obtain ⟨horder, hsize, hpast⟩ := h
  refine ⟨?_, ?_, ?_⟩
  · rwa [hz]
  · rwa [hz]
  · rwa [hz, hv, hm]

theorem State.zoneKept.of_untouched (h : s.zoneKept) (hz : t.zone = s.zone) (ht : t.trk = s.trk) : t.zoneKept :=
  h.of_same hz (congrArg _ ht) (congrArg _ ht)

/-- What a frame lemma says of an operation is enough where it leaves the table and the tracker. -/
theorem State.zoneKept.of_frame {u : State} (h : s.zoneKept) (heq : t = u) (hz : u.zone = s.zone)
    (ht : u.trk = s.trk) : t.zoneKept := heq ▸ h.of_untouched hz ht

/-- A table in order from which entries are taken away. -/
theorem State.zoneKept.of_sublist (h : s.zoneKept) (hz : t.zone.Sublist s.zone) (ht : t.trk = s.trk) : t.zoneKept := by
  obtain ⟨horder, hsize, hpast⟩ := h
  refine ⟨horder.sublist hz, Nat.le_trans hz.length_le hsize, ?_⟩
  rw [ht]
  exact fun hvalid => (hpast hvalid).of_subset fun _ => hz.mem

theorem State.zoneKept_of_empty (h : t.zone = []) : t.zoneKept := by
  refine ⟨?_, ?_, fun _ => ?_⟩ <;> rw [h]
  · exact List.Pairwise.nil
  · exact Nat.zero_le _
  · nofun

/-- A table settled against the minute of the count (R46). -/
theorem State.zoneKept.of_settled (h : s.zoneKept) (hz : t.zone = settledTable t.trk.minute s.zone) : t.zoneKept := by
  obtain ⟨horder, hsize, -⟩ := h
  refine ⟨?_, ?_, fun _ => ?_⟩ <;> rw [hz]
  · exact settledTable_inOrder _ horder
  · exact Nat.le_trans (settledTable_length _ _) hsize
  · exact settledTable_onePastAt _ horder

/-! ### The commands of the link (R47, R48) -/

theorem zoneAdd_zoneKept (h : s.zoneKept) (start : Word32) (z : Byte) : (zoneAdd start z s).2.zoneKept := by
  obtain ⟨horder, hsize, hpast⟩ := h
  have hsame {st : Status} (heq : zoneAddTable s start.toNat z = (st, s.zone)) : (zoneAdd start z s).2.zoneKept := by
    rw [zoneAdd, heq]
    exact ⟨horder, hsize, hpast⟩
  cases hvalid : s.trk.countValid with
  | false => exact hsame (zoneAddTable_of_invalid hvalid)
  | true =>
    have hone := hpast hvalid
    by_cases hrefused : s.zoneAddRefused start.toNat z
    · exact hsame (zoneAddTable_of_refused hvalid hrefused)
    by_cases hopen : s.pastEntry = none ∨ s.trk.minute < start.toNat
    · by_cases hroom : s.zone.length < 16
      · obtain ⟨table, heq, -, hone', horder', hlength⟩ := zoneAdd_inserts horder hvalid hone hrefused hopen hroom
        rw [zoneAdd, heq]
        exact ⟨horder', hlength ▸ hroom, fun _ => hone'⟩
      · have hfull := zoneAddTable_of_open hvalid hrefused hopen
        rw [if_pos (Nat.not_lt.mp hroom)] at hfull
        exact hsame hfull
    · obtain ⟨hp, hnc⟩ := not_or.mp hopen
      obtain ⟨p, hp⟩ := Option.ne_none_iff_exists'.mp hp
      obtain ⟨table, heq, -, hone', horder', hlength⟩ :=
        zoneAdd_replaces horder hvalid hone hrefused hp (Nat.not_lt.mp hnc)
      rw [zoneAdd, heq]
      exact ⟨horder', hlength ▸ hsize, fun _ => hone'⟩

theorem zoneRemove_zoneKept (h : s.zoneKept) (start : Word32) : (zoneRemove start s).2.zoneKept :=
  h.of_sublist (zoneRemoveTable_sublist s start.toNat) rfl

/-- Of the commands only ZONE ADD and ZONE REMOVE write the table, and none writes the tracker. -/
theorem perform_zoneKept (r : Request) (s : State) (h : s.zoneKept) : (perform r s).state.zoneKept := by
  have hframe {t : State} (hz : t.zone = s.zone) (ht : t.trk = s.trk) : t.zoneKept := h.of_untouched hz ht
  cases r <;> simp only [perform, readAnswer, answer]
  case zoneAdd start z => exact zoneAdd_zoneKept h start z
  case zoneRemove start => exact zoneRemove_zoneKept h start
  case descWrite b => rw [descWrite_frame]; exact hframe rfl rfl
  case descHand i => rw [descHand_frame]; exact hframe rfl rfl
  case descRecall i => rw [descRecall_frame]; exact hframe rfl rfl
  case descRead i => unfold descRead; split <;> exact h
  case laneStart l e g p => rw [laneStart_frame]; exact hframe rfl rfl
  case laneStop l => rw [laneStop_frame]; exact hframe rfl rfl
  case laneResume l => rw [laneResume_frame]; exact hframe rfl rfl
  case laneClear l => rw [laneClear_frame]; exact hframe rfl rfl
  case eventsClear m => unfold eventsClear; split <;> exact hframe rfl rfl
  case eventsEnable m => unfold eventsEnable; split <;> exact hframe rfl rfl
  case requestSet x y =>
    unfold requestSet
    split
    · dsimp only
      rw [redriveFlags_frame]
      exact hframe rfl rfl
    · exact h
  case keyYield => rw [keyYield_frame]; exact hframe rfl rfl
  case readmit => rw [readmit_frame]; exact hframe rfl rfl
  all_goals exact hframe rfl rfl

theorem setRx_zoneKept (rx : Receiver) (s : State) (h : s.zoneKept) : (s.setRx rx).zoneKept :=
  h.of_untouched rfl rfl

theorem restart_zoneKept (i : Instant) (h : s.zoneKept) : (restart i s).zoneKept := by
  obtain ⟨horder, hsize, -⟩ := h
  have hzone : (restart i s).zone = s.zone := State.releaseKeying_zone i s
  refine ⟨?_, ?_, nofun⟩
  · rwa [hzone]
  · rwa [hzone]

theorem responseEnd_zoneKept (i : Instant) (h : s.zoneKept) : (responseEnd i s).zoneKept := by
  unfold responseEnd
  split
  · split
    · exact restart_zoneKept i h
    · exact setRx_zoneKept _ s h
  all_goals exact h

theorem cliFramingError_zoneKept (h : s.zoneKept) : (cliFramingError s).zoneKept := by
  unfold cliFramingError
  split
  · exact setRx_zoneKept _ s h
  · exact setRx_zoneKept _ s h
  · exact h
  · exact h

theorem cliGapTimeout_zoneKept (h : s.zoneKept) : (cliGapTimeout s).zoneKept := by
  unfold cliGapTimeout
  split
  · exact h
  · exact setRx_zoneKept _ s h
  · exact setRx_zoneKept _ s h
  · exact setRx_zoneKept _ s h
  · exact h

/-! ### The reference tracker (R26, R46) -/

theorem lockFromAcquiring_zoneKept (sec : RefSecond) (time : UtcTime) (h : s.zoneKept) :
    (lockFromAcquiring sec time s).zoneKept := by
  refine h.of_settled ?_
  rw [lockFromAcquiring_zone, lockFromAcquiring_trk]
  rfl

theorem judgeAcquiring_zoneKept (sec : RefSecond) (v : Verdict) (h : s.zoneKept) :
    (judgeAcquiring sec v s).zoneKept := by
  unfold judgeAcquiring
  split
  · exact h.of_same rfl rfl rfl
  · exact h
  · split
    · exact lockFromAcquiring_zoneKept sec _ h
    · exact h.of_same rfl rfl rfl

theorem judgeLocked_zoneKept (sec : RefSecond) (v : Verdict) (h : s.zoneKept) : (judgeLocked sec v s).zoneKept := by
  unfold judgeLocked
  split
  · exact h.of_same rfl rfl rfl
  · exact h.of_same rfl rfl rfl
  · split <;> exact h.of_same rfl rfl rfl

theorem judgeRunningAlone_zoneKept (sec : RefSecond) (v : Verdict) (h : s.zoneKept) :
    (judgeRunningAlone sec v s).zoneKept := by
  unfold judgeRunningAlone
  split
  · exact h.of_same rfl rfl rfl
  · exact h.of_same rfl rfl rfl
  · split <;> exact h.of_same rfl rfl rfl

theorem judgeStepping_zoneKept (sec : RefSecond) (v : Verdict) (h : s.zoneKept) :
    (judgeStepping sec v s).zoneKept := by
  unfold judgeStepping
  split
  · exact h.of_same rfl rfl rfl
  · dsimp only
    split <;> exact h.of_same rfl rfl rfl
  · exact h.of_same rfl rfl rfl

theorem proofReferenceCheck_zoneKept (h : s.zoneKept) : (proofReferenceCheck s).zoneKept :=
  h.of_frame (proofReferenceCheck_frame s) rfl rfl

theorem judge_zoneKept (sec : RefSecond) (v : Verdict) (h : s.zoneKept) : (judge sec v s).zoneKept := by
  have hnoted : (s.secondNoted sec).zoneKept := h.of_same rfl rfl rfl
  refine proofReferenceCheck_zoneKept ?_
  cases s.trk.refState with
  | acquiring => exact judgeAcquiring_zoneKept sec v hnoted
  | locked => exact judgeLocked_zoneKept sec v hnoted
  | holdover => exact judgeRunningAlone_zoneKept sec v hnoted
  | stepping => exact judgeStepping_zoneKept sec v hnoted
  | expired => exact judgeRunningAlone_zoneKept sec v hnoted

theorem endMessage_zoneKept (msg : Option RefMessage) (h : s.zoneKept) : (endMessage msg s).zoneKept := by
  cases ho : s.trk.openMsg with
  | none => rwa [endMessage_of_closed msg s ho]
  | some o =>
    rw [endMessage_of_open msg o s ho]
    exact judge_zoneKept _ _ (h.of_same rfl rfl rfl)

theorem refpEdge_zoneKept (i : Instant) (h : s.zoneKept) : (refpEdge i s).zoneKept := by
  have hended := endMessage_zoneKept none h
  unfold refpEdge steerByRefp
  dsimp only
  split
  · split
    · exact hended.of_same rfl rfl rfl
    · split <;> exact hended.of_same rfl rfl rfl
  · exact hended.of_same rfl rfl rfl

theorem refdCharacter_zoneKept (b : Byte) (h : s.zoneKept) : (refdCharacter b s).zoneKept := by
  unfold refdCharacter
  split
  · exact h
  · dsimp only
    split
    · exact endMessage_zoneKept _ h
    · exact h.of_same rfl rfl rfl

theorem notionalSecond_zoneKept (h : s.zoneKept) : (notionalSecond s).zoneKept := by
  unfold notionalSecond
  split
  · exact judge_zoneKept _ _ h
  · exact h

/-! ### The own edge (R45) and the realign (R46) -/

theorem ownEdge_zoneKept (h : s.zoneKept) : (ownEdge s).zoneKept := by
  obtain ⟨horder, hsize, hpast⟩ := h
  have hzone := ownEdge_zone s
  have hminute : (ownEdge s).trk.minute = _ := (congrArg Tracker.minute (ownEdge_trk s)).trans s.trk.atEdge_minute
  have hvalid : (ownEdge s).trk.countValid = s.trk.countValid := (congrArg Tracker.countValid (ownEdge_trk s) :)
  cases hboundary : s.trk.boundaryNext with
  | true =>
    simp only [hboundary, if_true] at hzone hminute
    have hsub := dueTable_sublist (s.trk.minute + 1) s.zone
    refine ⟨?_, ?_, ?_⟩ <;> rw [hzone]
    · exact horder.sublist hsub
    · exact Nat.le_trans hsub.length_le hsize
    · rw [hvalid, hminute]
      exact fun hv => dueTable_onePastAt horder (hpast hv)
  | false =>
    simp only [hboundary, Bool.false_eq_true, if_false] at hzone hminute
    exact State.zoneKept.of_same ⟨horder, hsize, hpast⟩ hzone hvalid hminute

theorem realign_zoneKept (h : s.zoneKept) : (realign s).zoneKept := by
  by_cases hdue : s.trk.realignDue ∧ s.trk.armed ∧ s.trk.refState = .stepping
  · cases htarget : s.trk.realignTarget with
    | none => simpa [realign, hdue, htarget] using h
    | some target =>
      obtain ⟨e, u⟩ := target
      rw [realign_of_target s e u hdue.1 hdue.2.1 hdue.2.2 htarget, State.afterRealign_frame]
      exact h.of_settled rfl
  · rwa [realign, if_neg hdue]

/-! ### Every command -/

theorem exec_zoneKept (c : Instr) (s t : State) (h : s.zoneKept) (hexec : exec c s = .next t) : t.zoneKept := by
  have hwhen {f : State → State} (hf : (f s).zoneKept) : (whenRunning f s).zoneKept := whenRunning_keeps _ f s h hf
  have hcommand (r : Request) : (whenRunning (command r) s).zoneKept :=
    command_keeps _ setRx_zoneKept perform_zoneKept r s h
  have hframe {f : State → State} {u : State} (heq : f s = u) (hz : u.zone = s.zone) (ht : u.trk = s.trk) :
      (whenRunning f s).zoneKept := hwhen (h.of_frame heq hz ht)
  have hcharacter (b : Byte) : (cliCharacter b s).zoneKept :=
    cliCharacter_keeps _ setRx_zoneKept perform_zoneKept b s h
  cases c <;> obtain rfl := Host.Outcome.next.inj hexec
  case powerOn => exact State.zoneKept_of_empty rfl
  case rstnAssert => exact State.zoneKept_of_empty rfl
  case supplyLoss => exact State.zoneKept_of_empty rfl
  case rstnRelease =>
    unfold rstnRelease
    split
    · exact State.zoneKept_of_empty rfl
    · exact h
  case startIntervalEnd =>
    unfold startIntervalEnd
    split
    · exact h.of_same rfl rfl rfl
    · exact h
  case refpEdge i => exact hwhen (refpEdge_zoneKept i h)
  case referenceMessage b => exact hwhen (refdCharacter_zoneKept b h)
  case refdCharacter b => exact hwhen (refdCharacter_zoneKept b h)
  case refdFramingError => exact hwhen (endMessage_zoneKept none h)
  case messageWindowExpiry => exact hwhen (endMessage_zoneKept none h)
  case notionalReferenceSecond => exact hwhen (notionalSecond_zoneKept h)
  case ownEdge => exact hwhen (ownEdge_zoneKept h)
  case realign => exact hwhen (realign_zoneKept h)
  case cliFrame bytes => exact hwhen (cliFrame_keeps _ setRx_zoneKept perform_zoneKept bytes s h)
  case cliCharacter b => exact hwhen (hcharacter b)
  case cliLengthOverrun b => exact hwhen (hcharacter b)
  case cliFramingError => exact hwhen (cliFramingError_zoneKept h)
  case cliGapTimeout => exact hwhen (cliGapTimeout_zoneKept h)
  case responseEnd i => exact hwhen (responseEnd_zoneKept i h)
  case tickStart => exact hframe (tickStart_frame s) rfl rfl
  case strobeEnd => exact hframe (strobeEnd_frame s) rfl rfl
  case kylReadback => exact hframe (kylReadback_frame s) rfl rfl
  case ownWindowStart => exact hframe (openWindow_frame s) rfl rfl
  case lateSync => exact hframe (lateSync_frame s) rfl rfl
  case syncEdgeObserved i => exact hframe (observeSync_frame i s) rfl rfl
  case deadWindow => exact hframe (deadWindow_frame s) rfl rfl
  case cellDriveStart => exact hframe (cellStart_frame s) rfl rfl
  case holdCellSample o => exact hframe (holdSample_frame o s) rfl rfl
  case shadowSample o => exact hframe (shadowSample_frame o s) rfl rfl
  case flagCellSample o => exact hframe (flagSample_frame o s) rfl rfl
  case vacancy => exact hframe (vacancy_frame s) rfl rfl
  case digestCellSample o => exact hframe (digestSample_frame o s) rfl rfl
  case passResult => exact hframe (passResult_frame s) rfl rfl
  case assentCellSample o => exact hframe (assentSample_frame o s) rfl rfl
  case passDecision => exact hframe (passDecision_frame s) rfl rfl
  case biddingSample o => exact hframe (biddingSample_frame o s) rfl rfl
  case bidvalueCellSample o => exact hframe (bidvalueSample_frame o s) rfl rfl
  case windowClose => exact hframe (windowClose_frame s) rfl rfl
  case cusPulseEnd => exact hwhen (h.of_untouched rfl rfl)
  case syncDriveEnd => exact hwhen (h.of_untouched rfl rfl)
  case keyingBusChange i l =>
    exact h.of_frame (busChange_frame i l s) rfl rfl
  all_goals exact hcommand _

end Kept
end Sys2Proof.Machine

open Sys2Proof Sys2Proof.Machine

/-- Settles O57: of all the commands only those above write the table, the validity of the count or its minute
(`exec_zoneKept`). -/
theorem zoneTableIsKept : Obligations.ZoneTableIsKept := by
  intro s t hzone hpast hstep
  rw [← State.zoneKept_iff]
  exact step_keeps State.zoneKept (fun _ _ h => h.of_untouched rfl rfl) exec_zoneKept s t
    ((State.zoneKept_iff s).mpr ⟨hzone, hpast⟩) hstep
end

section
/-! SUPPORT. The civil calendar (R39 to R43): the zone state at a minute, the time of day, the date and the weekday of a local
minute number, and when the warnings stand. -/

namespace Sys2Proof.Machine

/-! ### The zone state (R39) -/

theorem zoneStateAt_of_none {table : List ZoneEntry} {t : Nat} (h : ∀ e ∈ table, t < e.start) :
    zoneStateAt table t = .standard := by
  have hnone : (table.filter fun e => decide (e.start ≤ t)) = [] :=
    List.filter_eq_nil_iff.mpr fun e he => by simpa using h e he
  simp [zoneStateAt, hnone]

theorem zoneStateAt_of_latest {table : List ZoneEntry} {t : Nat} {e : ZoneEntry} (horder : inOrder table)
    (he : e ∈ table) (het : e.start ≤ t) (hlatest : ∀ x ∈ table, x.start ≤ t → x.start ≤ e.start) :
    zoneStateAt table t = e.state := by
  have hlast := (settled_past_iff t table horder e).mpr ⟨he, het, hlatest⟩
  simp only [zoneStateAt, hlast]

/-! ### The time of day (R40) -/

/-- Hour and minute are the quotient and the remainder of the local minute of day. -/
theorem timeOfDay_spec (l : Int) :
    (l % 1440).toNat % 60 < 60 ∧ (l % 1440).toNat / 60 < 24
      ∧ ((60 * ((l % 1440).toNat / 60) + (l % 1440).toNat % 60 : Nat) : Int) = l % 1440 := by
  have hday : ((l % 1440).toNat : Int) = l % 1440 := Int.toNat_of_nonneg (Int.emod_nonneg l (by decide))
  have hlt : l % 1440 < 1440 := Int.emod_lt_of_pos l (by decide)
  refine ⟨Nat.mod_lt _ (by decide), ?_, ?_⟩
  · omega
  · rw [Nat.div_add_mod, hday]

/-! ### The weekday (R41) -/

/-- Day number 0 is a Saturday, weekday 6. -/
theorem weekdayOfDay_spec (d : Int) :
    1 ≤ weekdayOfDay d ∧ weekdayOfDay d ≤ 7 ∧ (weekdayOfDay d : Int) % 7 = (d + 6) % 7 := by
  unfold weekdayOfDay
  omega

/-! ### The date (R40) -/

theorem dateOfDay_bounds (d : Int) :
    1 ≤ (dateOfDay d).dayOfYear ∧ (dateOfDay d).dayOfYear ≤ 366 ∧ (dateOfDay d).yearOfCentury ≤ 99 := by
  unfold dateOfDay
  dsimp only
  split
  next hleap =>
    dsimp only
    omega
  next hcommon =>
    dsimp only
    omega

/-- The days of the first year of a group of four, a leap year. -/
theorem dateOfDay_of_leap {g doy : Nat} (hg : g ≤ 24) (hfirst : 1 ≤ doy) (hlast : doy ≤ 366) :
    dateOfDay (1461 * g + (doy - 1) : Nat) = ⟨doy, 4 * g⟩ := by
  have hgroup : ((1461 * g + (doy - 1) : Nat) : Int) / 1461 = g := by omega
  have hday : ((1461 * g + (doy - 1) : Nat) : Int) % 1461 = doy - 1 := by omega
  have hleap : (doy : Int) - 1 < 366 := by omega
  simp only [dateOfDay, hgroup, hday, hleap, if_true, CivilDate.mk.injEq]
  omega

/-- The days of the three common years that follow it. -/
theorem dateOfDay_of_common {g k doy : Nat} (hg : g ≤ 24) (hk : k ≤ 2) (hfirst : 1 ≤ doy) (hlast : doy ≤ 365) :
    dateOfDay (1461 * g + 366 + 365 * k + (doy - 1) : Nat) = ⟨doy, 4 * g + 1 + k⟩ := by
  have hgroup : ((1461 * g + 366 + 365 * k + (doy - 1) : Nat) : Int) / 1461 = g := by omega
  have hday : ((1461 * g + 366 + 365 * k + (doy - 1) : Nat) : Int) % 1461 = 366 + 365 * k + (doy - 1) := by omega
  have hcommon : ¬(366 + 365 * (k : Int) + (doy - 1) < 366) := by omega
  simp only [dateOfDay, hgroup, hday, hcommon, if_false, CivilDate.mk.injEq]
  omega

/-- Every day of the years 2000 to 2099 is given its year and its day of the year. -/
theorem dateOfDay_of_year {y doy : Nat} (hy : y ≤ 99) (hfirst : 1 ≤ doy)
    (hlast : doy ≤ if y % 4 = 0 then 366 else 365) :
    dateOfDay (((List.range y).map fun y => if y % 4 = 0 then 366 else 365).sum + (doy - 1) : Nat) = ⟨doy, y⟩ := by
  rw [yearLength_sum]
  by_cases hleap : y % 4 = 0
  · rw [if_pos hleap] at hlast
    obtain ⟨g, rfl⟩ : ∃ g, y = 4 * g := ⟨y / 4, by omega⟩
    have hdays : 365 * (4 * g) + (4 * g + 3) / 4 = 1461 * g := by omega
    rw [hdays]
    exact dateOfDay_of_leap (by omega) hfirst hlast
  · rw [if_neg hleap] at hlast
    obtain ⟨g, k, hk, rfl⟩ : ∃ g k, k ≤ 2 ∧ y = 4 * g + 1 + k := ⟨y / 4, y % 4 - 1, by omega, by omega⟩
    have hdays : 365 * (4 * g + 1 + k) + (4 * g + 1 + k + 3) / 4 = 1461 * g + 366 + 365 * k := by omega
    rw [hdays]
    exact dateOfDay_of_common (by omega) hk hfirst hlast

/-! ### The warnings (R42, R43) -/

theorem zoneChangeWarning_iff (table : List ZoneEntry) (t : Nat) :
    zoneChangeWarning table t = true ↔ ∃ e ∈ table, t + 1 ≤ e.start ∧ e.start ≤ t + 60 := by
  simp [zoneChangeWarning]

theorem leapWarning_iff (plan : LeapPlan) (t : Nat) : leapWarning plan t = true ↔ 1380 ≤ t % 1440 ∧ plan ≠ .none := by
  simp [leapWarning]

theorem leapKind_iff (plan : LeapPlan) (t : Nat) : leapKind plan t = true ↔ 1380 ≤ t % 1440 ∧ plan = .delete := by
  rw [leapKind, Bool.and_eq_true, leapWarning_iff, beq_iff_eq]
  constructor
  · rintro ⟨⟨hhour, -⟩, hdelete⟩
    exact ⟨hhour, hdelete⟩
  · rintro ⟨hhour, rfl⟩
    exact ⟨⟨hhour, nofun⟩, rfl⟩

end Sys2Proof.Machine

open Sys2Proof Sys2Proof.Machine

/-- Settles O29: each field is one of the calendar's functions at the local minute number, and each has its own lemma. -/
theorem civilFieldsOfAMinute : Obligations.CivilFieldsOfAMinute := by
  intro offset table plan t _ _ f summer l
  have hlocal : localMinute offset table t = l := (Int.add_assoc _ _ _).symm
  have hminute : f.minute = (l % 1440).toNat % 60 := hlocal ▸ rfl
  have hhour : f.hour = (l % 1440).toNat / 60 := hlocal ▸ rfl
  have hweekday : f.weekday = weekdayOfDay (l / 1440) := hlocal ▸ rfl
  have hdoy : f.dayOfYear = (dateOfDay (l / 1440)).dayOfYear := hlocal ▸ rfl
  have hyear : f.yearOfCentury = (dateOfDay (l / 1440)).yearOfCentury := hlocal ▸ rfl
  obtain ⟨hminutes, hhours, htime⟩ := timeOfDay_spec l
  obtain ⟨hmonday, hsunday, hweek⟩ := weekdayOfDay_spec (l / 1440)
  obtain ⟨hfirst, hlast, hcentury⟩ := dateOfDay_bounds (l / 1440)
  rw [hminute, hhour, hweekday, hdoy, hyear]
  refine ⟨zoneStateAt_of_none, fun horder e he het hlatest => zoneStateAt_of_latest horder he het hlatest, hminutes,
    hhours, htime, hmonday, hsunday, hweek, hfirst, hlast, hcentury, fun y doy hy h1 h2 hday => ?_, fun hday => ?_,
    fun hday => ?_, zoneChangeWarning_iff table t, leapWarning_iff plan t, leapKind_iff plan t⟩
  · rw [hday, dateOfDay_of_year hy h1 h2]
    exact ⟨rfl, rfl⟩
  · rw [hday]
    exact ⟨rfl, rfl⟩
  · rw [hday]
    exact ⟨rfl, rfl⟩
end

section
/-! SUPPORT. The own edge from the side of the drafts and their records (R53, R65, R99, R101): what a boundary hands over, what a
freeze makes, and what every other edge leaves. -/

namespace Sys2Proof.Machine

/-! ### Which own edge comes next -/

theorem State.boundaryAhead_iff {s : State} (h : s.running = true) : s.boundaryAhead ↔ s.trk.boundaryNext = true := by
  simp [State.boundaryAhead, Tracker.boundaryNext_iff, h]

/-- No minute is so short that second 47 is its last. -/
theorem Tracker.freezeNext_iff (t : Tracker) : t.freezeNext = true ↔ t.countValid = true ∧ t.second = 47 := by
  have hlength : 59 ≤ minuteLength t.minute t.plan := by
    rw [minuteLength_eq]
    cases t.plan <;> split <;> decide
  have hwithin (h : t.second = 47) : t.inLastSecond = false := by
    simp [Tracker.inLastSecond]
    omega
  simp only [Tracker.freezeNext, Bool.and_eq_true, beq_iff_eq, Bool.not_eq_true']
  exact ⟨fun h => h.1, fun h => ⟨h, hwithin h.2⟩⟩

theorem Tracker.boundaryNext_of_freeze {t : Tracker} (h : t.freezeNext = true) : t.boundaryNext = false :=
  Bool.eq_false_iff.mpr fun hboundary => by simp [t.freezeNext_of_boundary hboundary] at h

/-! ### A record at the hand-over (R101) -/

theorem ConcordRecord.handedOver_of_pending {r : ConcordRecord} (h : r.outcome = .pending) :
    r.handedOver =
      { minute := r.minute
        outcome := .none
        digest := none
        tally := 0
        passesUsed := 0
        role := some .abstain
        assenting := 0
        standing := none
        nextPass := none } := by
  simp [ConcordRecord.handedOver, h]

theorem ConcordRecord.handedOver_of_decided {r : ConcordRecord} (h : r.outcome ≠ .pending) :
    r.handedOver = { r with standing := none, nextPass := none } := by
  simp [ConcordRecord.handedOver, h]

/-- An own minute boundary hands over NEXT and its record as they stood before the edge (R65, R101): the window of a last second
carries no pass to miss. -/
theorem ownEdge_drafts_of_boundary (s : State) (h : s.trk.boundaryNext = true) :
    (ownEdge s).current = s.next ∧ (ownEdge s).next = none ∧ (ownEdge s).nextRec = none
      ∧ (ownEdge s).curRec = s.nextRec.map ConcordRecord.handedOver := by
  have hnext : s.edgeCounted.next = s.next := by rw [State.edgeCounted_frame]
  have hrecord : s.edgeCounted.nextRec = s.nextRec :=
    s.edgeCounted_window.2.2.2.trans (endWindow_nextRec_of_boundary s h)
  have hdrafts := minuteBoundary_drafts s.trk.atEdge.minute s.edgeCounted
  rw [hnext, hrecord] at hdrafts
  rw [ownEdge_of_boundary s h, keyEdge_frame, proofReferenceCheck_eq]
  exact hdrafts

end Sys2Proof.Machine

open Sys2Proof Sys2Proof.Machine

/-- Settles O13: the boundary's part of the own edge is `handOver`, and a record is handed over in one of two forms. -/
theorem boundaryHandsOverDraftsAndRecords : Obligations.BoundaryHandsOverDraftsAndRecords := by
  refine ⟨fun s hrun hnot => ⟨_, exec_ownEdge_of_running s hrun, ?_⟩, fun s hahead => ?_⟩
  · have hboundary : s.trk.boundaryNext = false := Bool.eq_false_iff.mpr (mt (State.boundaryAhead_iff hrun).mpr hnot)
    rw [ownEdge_handedOver, hboundary, Bool.false_and, Bool.or_false]
  · have hboundary : s.trk.boundaryNext = true := (State.boundaryAhead_iff hahead.1).mp hahead
    obtain ⟨hcurrent, hnext, hnextRec, hcurRec⟩ := ownEdge_drafts_of_boundary s hboundary
    refine ⟨_, exec_ownEdge_of_running s hahead.1, hcurrent, hnext, hnextRec, ?_, fun hnone => ?_, fun r hr hdecided => ?_,
      fun r hr hpending => ?_⟩
    · rw [ownEdge_handedOver, hboundary]
      simp [Option.isSome_iff_ne_none]
    · rw [hcurRec, hnone, Option.map_none]
    · rw [hcurRec, hr, Option.map_some, ConcordRecord.handedOver_of_decided hdecided]
    · rw [hcurRec, hr, Option.map_some, ConcordRecord.handedOver_of_pending hpending]
end

section
/-! SUPPORT. The digest of a draft (R63, R64): the packed row byte by byte, and the cyclic check bit by bit. -/

namespace Sys2Proof.Machine

/-! ### The packed row (R63) -/

/-- The code of the symbol at a place of a row, 0 beyond its end. -/
def codeAt (row : List Symbol) (k : Nat) : Nat := (row[k]?.map Symbol.code).getD 0

theorem packRow_length (row : List Symbol) : (packRow row).length = (row.length + 3) / 4 := by
  induction row using packRow.induct with
  | case1 a b c d rest ih =>
    simp only [packRow, List.length_cons, ih]
    omega
  | case2 | case3 | case4 | case5 => simp [packRow]

/-- Byte `i` of a packed row holds the symbols from place `4 * i` on. -/
theorem packRow_getElem? (row : List Symbol) (i : Nat) (hi : i < (packRow row).length) :
    (packRow row)[i]? =
      some (packCodes (codeAt row (4 * i)) (codeAt row (4 * i + 1)) (codeAt row (4 * i + 2)) (codeAt row (4 * i + 3))) := by
  induction row using packRow.induct generalizing i with
  | case1 a b c d rest ih =>
    cases i with
    | zero => rfl
    | succ i =>
      have hrest (k : Nat) : codeAt (a :: b :: c :: d :: rest) (4 * (i + 1) + k) = codeAt rest (4 * i + k) := by
        have hplace : 4 * (i + 1) + k = 4 * i + k + 4 := by omega
        simp [codeAt, hplace]
      rw [packRow, List.getElem?_cons_succ, ih i (Nat.lt_of_succ_lt_succ hi)]
      rw [hrest 1, hrest 2, hrest 3, show codeAt _ (4 * (i + 1)) = codeAt rest (4 * i) from hrest 0]
  | case2 | case3 | case4 =>
    obtain rfl : i = 0 := Nat.lt_one_iff.mp hi
    rfl
  | case5 => cases hi

/-! ### The cyclic check (R64) -/

/-- The highest bit of the register and the bit that enters decide together whether the generator is subtracted. -/
theorem crc32Bit_eq (reg : Word32) (b : Bool) :
    crc32Bit reg b = (reg <<< 1) ^^^ (if reg.getLsbD 31 = b then 0#32 else 0x04C11DB7#32) := by
  have hmsb : reg.msb = reg.getLsbD 31 := BitVec.msb_eq_getLsbD_last reg
  rw [crc32Bit, hmsb]
  by_cases h : reg.getLsbD 31 = b
  · rw [if_pos h, h, bne_self_eq_false, if_neg Bool.false_ne_true, BitVec.xor_zero]
  · rw [if_neg h, if_pos (bne_iff_ne.mpr h)]

/-- The check of an image as the division of its bits. -/
theorem crc32_eq_division (image : List Byte) :
    crc32 image =
      ~~~ (((List.range (8 * image.length)).map fun k => (image.getD (k / 8) 0).getLsbD (7 - k % 8)).foldl
        (fun (reg : Word32) b => (reg <<< 1) ^^^ (if reg.getLsbD 31 = b then 0#32 else 0x04C11DB7#32)) 0xFFFFFFFF#32) := by
  rw [range_bits_eq_flatMap_byteBits, crc32]
  simp only [← crc32Bit_eq]

end Sys2Proof.Machine
end

section
/-! SUPPORT. The own edge that is no boundary (R53, R79, R89, R99, R118): what stands when the key state is settled, and what a
freeze makes of it. -/

namespace Sys2Proof.Machine

/-! ### A missed pass (R99) -/

/-- A record that awaits the pass of the window in progress becomes BLIND, and every other stays. -/
theorem missPass_nextRec (s : State) :
    (missPass s).nextRec =
      s.nextRec.map fun r =>
        if r.outcome = .pending ∧ r.nextPass ≠ none ∧ s.windowPass = r.nextPass then { r with standing := some .blind }
        else r := by
  cases hrec : s.nextRec with
  | none => cases hpass : s.windowPass <;> simp [missPass, hpass, hrec]
  | some r =>
    cases hpass : s.windowPass with
    | none =>
      have hnot : ¬(r.nextPass ≠ none ∧ none = r.nextPass) := fun h => h.1 h.2.symm
      simp [missPass, hpass, hrec, hnot]
    | some p =>
      have hawaits : r.nextPass ≠ none ∧ some p = r.nextPass ↔ r.nextPass = some p :=
        ⟨fun h => h.2.symm, fun h => ⟨by simp [h], h.symm⟩⟩
      simp only [missPass, hpass, hrec, Option.map_some, hawaits]
      split
      · rfl
      · exact hrec

theorem missPass_nextRec_of_no_pass (s : State) (h : s.windowPass = none) : (missPass s).nextRec = s.nextRec := by
  simp [missPass, h]

/-- The window that an edge ends is missed unless it is over. -/
theorem endWindow_nextRec (s : State) :
    (endWindow s).nextRec = if s.win.phase = .over then s.nextRec else (missPass s).nextRec := by
  unfold endWindow
  split
  next hopened =>
    rw [hopened, closeCut, closeDead, closeWith_frame]
    dsimp only
    rw [cancelUnreadYield_frame]
    rfl
  next hwaiting =>
    rw [hwaiting]
    rfl
  next hover => rw [if_pos hover]

/-- The window of second 47 carries no pass (R91). -/
theorem State.windowPass_of_freeze {s : State} (h : s.trk.freezeNext = true) : s.windowPass = none := by
  obtain ⟨-, hsecond⟩ := s.trk.freezeNext_iff.mp h
  unfold State.windowPass State.windowNumber
  split <;> simp [hsecond, passOfSecond]

/-! ### What the freeze reads of second 47's window (R57) -/

theorem steadyDecided_eq_true (read : Bool) (r : Option WindowRecord) :
    steadyDecided read r = true ↔
      read = true ∧ ∃ w, r = some w ∧ w.second = some 47 ∧ w.steady = true := by
  cases r with
  | none => simp [steadyDecided, requestRecord]
  | some w =>
    cases read with
    | false => simp [steadyDecided, requestRecord, Option.filter_some]
    | true => by_cases hsecond : w.second = some 47 <;> simp [steadyDecided, requestRecord, Option.filter_some, hsecond]

/-- STEADY is read where second 47's own window is over and its record says so: a cut window's record does not, and one that was
not opened is not read. -/
theorem steadyDecided_iff (s : State) :
    steadyDecided s.windowRead (endWindow s).winRec = true ↔
      s.win.phase = .over ∧ ∃ w, s.winRec = some w ∧ w.second = some 47 ∧ w.steady = true := by
  rw [steadyDecided_eq_true, endWindow_winRec]
  cases hphase : s.win.phase with
  | waiting => simp [State.windowRead, hphase]
  | opened => simp [deadRecord]
  | _ => simp [State.windowRead, hphase]

/-! ### When the key state is settled -/

/-- The state at an own edge that is no boundary, when the key state has been settled. -/
def State.edgeKeyed (s : State) : State := keyEdge false s.edgeCounted

theorem State.edgeKeyed_frame (s : State) :
    s.edgeKeyed =
      { s with
        trk := s.trk.atEdge
        nextRec := (endWindow s).nextRec
        win := (endWindow s).win
        winRec := (endWindow s).winRec
        peers := (endWindow s).peers
        key := s.edgeKeyed.key
        keying := s.edgeCounted.keying
        dec := s.edgeCounted.dec
        ev := s.edgeKeyed.ev } := by
  obtain ⟨hwin, hwinRec, hpeers, hnextRec⟩ := s.edgeCounted_window
  have hcounted := s.edgeCounted_frame
  rw [s.edgeCounted_trk, hwin, hwinRec, hpeers, hnextRec] at hcounted
  have hkeyed : s.edgeKeyed = { s.edgeCounted with key := s.edgeKeyed.key, ev := s.edgeKeyed.ev } := keyEdge_frame _ _
  generalize s.edgeKeyed.key = k, s.edgeKeyed.ev = e at hkeyed ⊢
  rw [hkeyed]
  generalize s.edgeCounted = c at hcounted ⊢
  rw [hcounted]

theorem keyEdge_proof (boundary : Bool) (s : State) : (keyEdge boundary s).key.proof = s.key.proof := by
  unfold keyEdge
  dsimp only
  repeat' split
  all_goals rfl

/-- No part of an own edge before the boundary or the freeze names a proof minute. -/
theorem State.edgeKeyed_proofMinute (s : State) : s.edgeKeyed.key.proof.minute = s.key.proof.minute := by
  have hended : (endWindow s).key.proof.minute = s.key.proof.minute := by
    obtain ⟨hkept, hcut⟩ := endWindow_key s
    by_cases hphase : s.win.phase = .opened
    · rw [hcut hphase]
      obtain hkey | ⟨-, -, -, hkey⟩ := cancelUnreadYield_key s <;> rw [hkey]
    · rw [hkept hphase]
  obtain ⟨m, b, hkey, -⟩ := secondEnds_key s.windowRead s.trk.nextEdge (endWindow s)
  rw [State.edgeKeyed, keyEdge_proof, State.edgeCounted_key, hkey]
  exact hended

/-- A yield is cancelled only in the last second's window (R112), so at a freeze the key state comes unchanged to its own part of
the edge. -/
theorem State.edgeCounted_keyState_of_freeze {s : State} (h : s.trk.freezeNext = true) :
    s.edgeCounted.key.state = s.key.state := by
  have hnotLast : s.trk.inLastSecond = false := by
    simp only [Tracker.freezeNext, Bool.and_eq_true, Bool.not_eq_true'] at h
    exact h.2
  have hcancel : cancelUnreadYield s = s := by
    simp [cancelUnreadYield, resolveYield, State.lastSecondWindow, hnotLast]
  have hended : (endWindow s).key.state = s.key.state := by
    obtain ⟨hkept, hcut⟩ := endWindow_key s
    by_cases hphase : s.win.phase = .opened
    · rw [hcut hphase, hcancel]
    · rw [hkept hphase]
  obtain ⟨m, b, hkey, -⟩ := secondEnds_key s.windowRead s.trk.nextEdge (endWindow s)
  rw [State.edgeCounted_key, hkey]
  exact hended

/-! ### The plain edge -/

/-- An own edge that is neither a boundary nor a freeze makes and loses no draft, and its record only by a missed pass. -/
theorem ownEdge_drafts_of_plain (s : State) (hb : s.trk.boundaryNext = false) (hf : s.trk.freezeNext = false) :
    (ownEdge s).next = s.next ∧ (ownEdge s).current = s.current ∧ (ownEdge s).curRec = s.curRec
      ∧ (ownEdge s).store = s.store ∧ (ownEdge s).lanes = s.lanes ∧ (ownEdge s).zone = s.zone
      ∧ (ownEdge s).nextRec = (endWindow s).nextRec := by
  rw [ownEdge_of_plain s hb hf, ← State.edgeKeyed, s.edgeKeyed_frame, proofReferenceCheck_eq]
  exact ⟨rfl, rfl, rfl, rfl, rfl, rfl, rfl⟩

/-! ### The freeze edge -/

/-- The key state that a freeze at this edge reads. -/
def State.freezeKeyState (s : State) : KeyState := freezeKey s.key.state s.edgeKeyed.key.state s.edgeKeyed.freeIdx

theorem State.freezeKeyState_eq_or (s : State) :
    s.freezeKeyState = s.key.state ∨ s.freezeKeyState = s.edgeKeyed.key.state := by
  unfold State.freezeKeyState freezeKey
  split
  · exact .inr rfl
  · split
    · exact .inl rfl
    · exact .inr rfl

/-- The state that the freeze of this edge leaves. -/
def State.edgeFrozen (s : State) : State :=
  freeze s.freezeKeyState s.windowRead (clearAssentPasses s.edgeKeyed)

/-- After its freeze an edge only counts the free choice and begins the second. -/
theorem ownEdge_of_freeze_eq (s : State) (h : s.trk.freezeNext = true) :
    ∃ n, ownEdge s = proofReferenceCheck (beginSecond { s.edgeFrozen with freeIdx := n }) := by
  rw [ownEdge_of_freeze s h, State.edgeCounted_keyState_of_freeze h]
  exact ⟨_, rfl⟩

/-- The parts of an own edge of a freeze that a draft and its record are in are those that the freeze leaves. -/
theorem ownEdge_eq_edgeFrozen (s : State) (h : s.trk.freezeNext = true) :
    (ownEdge s).next = s.edgeFrozen.next ∧ (ownEdge s).nextRec = s.edgeFrozen.nextRec
      ∧ (ownEdge s).current = s.edgeFrozen.current ∧ (ownEdge s).curRec = s.edgeFrozen.curRec
      ∧ (ownEdge s).store = s.edgeFrozen.store ∧ (ownEdge s).zone = s.edgeFrozen.zone
      ∧ (ownEdge s).peers = s.edgeFrozen.peers ∧ (ownEdge s).key.state = s.edgeFrozen.key.state
      ∧ (ownEdge s).key.proof.minute = s.edgeFrozen.key.proof.minute := by
  obtain ⟨n, hn⟩ := ownEdge_of_freeze_eq s h
  obtain ⟨b, hkey⟩ := proofReferenceCheck_key (beginSecond { s.edgeFrozen with freeIdx := n })
  rw [hn, hkey, proofReferenceCheck_eq]
  exact ⟨rfl, rfl, rfl, rfl, rfl, rfl, rfl, rfl, rfl⟩

/-- What a freeze leaves, whatever it makes: CURRENT with its record, the store and the zone table, and no assent pass (R79). -/
theorem State.edgeFrozen_keeps (s : State) :
    s.edgeFrozen.current = s.current ∧ s.edgeFrozen.curRec = s.curRec ∧ s.edgeFrozen.store = s.store
      ∧ s.edgeFrozen.zone = s.zone ∧ ∀ p : Fin 8, (s.edgeFrozen.peers[p]).assentPass = none := by
  rw [State.edgeFrozen, freeze_frame, State.edgeKeyed_frame]
  refine ⟨rfl, rfl, rfl, rfl, fun p => ?_⟩
  simp [clearAssentPasses]

/-! ### What the freeze makes -/

section Freeze
variable {s : State} (h : s.trk.freezeNext = true)
include h

/-- The count of a freeze stays in its minute, and the plan stays. -/
theorem Tracker.atEdge_of_freeze : s.trk.atEdge.minute = s.trk.minute ∧ s.trk.atEdge.plan = s.trk.plan := by
  have hboundary := Tracker.boundaryNext_of_freeze h
  refine ⟨by rw [s.trk.atEdge_minute, hboundary]; rfl, ?_⟩
  simp [Tracker.atEdge, Tracker.dayEndsNext, hboundary]

/-- Beyond the last minute of 2099 NEXT and its record stay (R53). -/
theorem State.edgeFrozen_of_beyond (hbeyond : lastMinute < s.trk.minute + 1) :
    s.edgeFrozen.next = s.next ∧ s.edgeFrozen.nextRec = s.nextRec := by
  have hminute : (clearAssentPasses s.edgeKeyed).trk.minute = s.trk.minute := by
    rw [s.edgeKeyed_frame]
    exact (Tracker.atEdge_of_freeze h).1
  have hnextRec : (endWindow s).nextRec = s.nextRec := by
    rw [endWindow_nextRec, missPass_nextRec_of_no_pass s (State.windowPass_of_freeze h), ite_self]
  rw [State.edgeFrozen, freeze_beyond _ _ _ (hminute ▸ hbeyond), s.edgeKeyed_frame]
  exact ⟨rfl, hnextRec⟩

/-- Up to the last minute of 2099 a freeze makes NEXT from the count, the plan and the reference state after the edge, with a
fresh record, and a PROVING unit without a proof minute takes the minute (R53 to R60, R89, R118). -/
theorem State.edgeFrozen_of_within (hwithin : s.trk.minute + 1 ≤ lastMinute) :
    ∃ coded chosen,
      s.edgeFrozen.next = some (draftOf (s.trk.minute + 1) coded s.trk.atEdge.refState s.freezeKeyState)
        ∧ s.edgeFrozen.nextRec =
          some (.fresh (draftOf (s.trk.minute + 1) coded s.trk.atEdge.refState s.freezeKeyState))
        ∧ s.edgeFrozen.key =
          (if s.edgeKeyed.key.state = .proving ∧ s.edgeKeyed.key.proof.minute = none then
            { s.edgeKeyed.key with proof := { s.edgeKeyed.key.proof with minute := some (s.trk.minute + 1) } }
          else s.edgeKeyed.key)
        ∧ (coded = none ↔
          s.win.phase = .over ∧ ∃ w, s.winRec = some w ∧ w.second = some 47 ∧ w.steady = true)
        ∧ ∀ c, coded = some c →
          c =
            codedPart (civilFields s.straps.offset s.zone s.trk.plan (s.trk.minute + 1))
              (s.trk.atEdge.refState == .holdover) (minuteLength (s.trk.minute + 1) s.trk.plan) chosen := by
  obtain ⟨hminute, hplan⟩ := Tracker.atEdge_of_freeze h
  have hframe := s.edgeKeyed_frame
  have htrk : (clearAssentPasses s.edgeKeyed).trk = s.trk.atEdge := by rw [hframe]; rfl
  have hcivil : (clearAssentPasses s.edgeKeyed).straps = s.straps ∧ (clearAssentPasses s.edgeKeyed).zone = s.zone := by
    rw [hframe]; exact ⟨rfl, rfl⟩
  have hwinRec : (clearAssentPasses s.edgeKeyed).winRec = (endWindow s).winRec := by rw [hframe]; rfl
  have hmakes := freeze_makes s.freezeKeyState s.windowRead (clearAssentPasses s.edgeKeyed)
  rw [htrk, hminute, hplan, hcivil.1, hcivil.2, hwinRec] at hmakes
  obtain ⟨coded, ln, e, d, rfl, hfrozen, hsteady, -, -, hcoded⟩ := hmakes hwithin
  refine ⟨coded, _, ?_, ?_, ?_, hsteady.trans (steadyDecided_iff s), hcoded⟩
  all_goals rw [State.edgeFrozen, hfrozen]
  rfl

end Freeze

/-- A freeze leaves the key state. -/
theorem freeze_keyState (key : KeyState) (read : Bool) (s : State) : (freeze key read s).key.state = s.key.state := by
  obtain hbeyond | hwithin := Nat.lt_or_ge lastMinute (s.trk.minute + 1)
  · rw [freeze_beyond key read s hbeyond]
  · obtain ⟨_, _, _, _, -, hfrozen, -⟩ := freeze_makes key read s hwithin
    rw [hfrozen]
    dsimp only
    split <;> rfl

theorem participates_eq (ref : RefState) (key : KeyState) :
    participates ref key = (decide (ref = .locked ∨ ref = .holdover) && key != .fenced) := by
  rw [participates, Bool.decide_or]
  rfl

end Sys2Proof.Machine

open Sys2Proof Sys2Proof.Machine

/-- Settles O14: the digest is a matter of lists and bits, and the edge is a freeze within 2099, a freeze beyond it, or an edge
at which a record can only miss its pass. -/
theorem freezeMakesNextAndItsRecord : Obligations.FreezeMakesNextAndItsRecord := by
  refine ⟨⟨rfl, ?_, crc32_eq_division⟩, fun s hrun => ⟨_, exec_ownEdge_of_running s hrun, ?_, ?_⟩⟩
  · intro c code
    have hcode (k : Nat) : code k = codeAt c.row k := by
      simp only [code, codeAt]
      cases c.row[k]? with
      | none => rfl
      | some a => cases a <;> rfl
    refine ⟨packRow c.row, rfl, packRow_length c.row, fun i hi => ?_⟩
    simp only [hcode]
    exact packRow_getElem? c.row i hi
  · intro hvalid hsecond
    have hfreeze : s.trk.freezeNext = true := s.trk.freezeNext_iff.mpr ⟨hvalid, hsecond⟩
    obtain ⟨hcurrent, hcurRec, hstore, hzone, hpeers⟩ := s.edgeFrozen_keeps
    obtain ⟨enext, enextRec, ecurrent, ecurRec, estore, ezone, epeers, ekeyState, eproof⟩ :=
      ownEdge_eq_edgeFrozen s hfreeze
    have hkeyState : (ownEdge s).key.state = s.edgeKeyed.key.state := ekeyState.trans (freeze_keyState _ _ _)
    rw [hkeyState, enext, enextRec, ecurrent, ecurRec, estore, ezone, epeers, eproof, ownEdge_trk]
    refine ⟨hpeers, hcurrent, hcurRec, hstore, hzone, State.edgeFrozen_of_beyond hfreeze, fun hwithin => ?_⟩
    obtain ⟨coded, chosen, hnext, hnextRec, hkey, hsteady, hcoded⟩ := State.edgeFrozen_of_within hfreeze hwithin
    refine ⟨_, hnext, rfl, rfl, rfl, s.freezeKeyState_eq_or, fun hproving hproof => ?_, participates_eq _ _, hsteady,
      fun c hc => ?_, hnextRec⟩
    · rw [hkey, if_pos ⟨hproving, s.edgeKeyed_proofMinute.trans hproof⟩]
    · rw [hcoded c hc]
      exact ⟨rfl, rfl, rfl, rfl⟩
  · intro hnotAhead hnotFreeze
    have hboundary : s.trk.boundaryNext = false := Bool.eq_false_iff.mpr (mt (State.boundaryAhead_iff hrun).mpr hnotAhead)
    have hfreeze : s.trk.freezeNext = false := Bool.eq_false_iff.mpr (mt s.trk.freezeNext_iff.mp hnotFreeze)
    obtain ⟨hnext, hcurrent, hcurRec, hstore, hlanes, hzone, hnextRec⟩ := ownEdge_drafts_of_plain s hboundary hfreeze
    rw [endWindow_nextRec] at hnextRec
    refine ⟨hnext, hcurrent, hcurRec, hstore, hlanes, hzone, fun hover => ?_, fun hopen => ?_⟩
    · rw [hnextRec, if_pos hover]
    · rw [hnextRec, if_neg hopen, missPass_nextRec]
end

section
/-! SUPPORT. The concord window's rows on a running unit, and the cell in progress, read or not (R73). -/

namespace Sys2Proof.Machine

/-- A row that a unit takes only while it runs, on a running unit. -/
theorem next_whenRunning (f : State → State) {s : State} (h : s.running = true) :
    (.next (whenRunning f s) : Host.Outcome State Fault Refusal) = .next (f s) :=
  congrArg Host.Outcome.next (whenRunning_of_running f s h)

theorem State.awaits_of_beforeSample {s : State} {n first last : Nat} (h : s.beforeSample n) (hfirst : first ≤ n)
    (hlast : n ≤ last) : s.win.awaits first last = true := by
  obtain ⟨-, hphase, halignment, hsampled, hcell⟩ := h
  exact Window.awaits_of n first last hphase halignment hsampled hcell hfirst hlast

/-! ### The levels of the lines (R70) -/

theorem Window.cca_eq_true (w : Window) (o : OthersDrive) : w.cca o = true ↔ w.pullCca = false ∧ o.pullCca = false := by
  simp [Window.cca]

theorem Window.cco_eq_true_of_sync_ended {w : Window} (h : w.syncDriving = false) (o : OthersDrive) :
    w.cco o = true ↔ w.driveCco = true ∨ o.driveCco = true := by
  simp [Window.cco, h]

/-! ### The flag cells (R83 to R85) -/

theorem flagSample_of_before {n : Nat} {s : State} (h : s.beforeSample n) (hfirst : 18 ≤ n) (hlast : n ≤ 20)
    (o : OthersDrive) :
    flagSample o s =
      { s with
        win :=
          { s.win with
            sampled := true
            steady := if n = 18 then s.win.cco o && s.win.cca o else s.win.steady
            quiet := if n = 19 then s.win.cco o else s.win.quiet
            yieldSet := if n = 20 then s.win.cco o else s.win.yieldSet } } := by
  have hawaits : s.win.awaits 18 20 = true := s.awaits_of_beforeSample h hfirst hlast
  obtain ⟨-, -, -, -, hcell⟩ := h
  simp only [flagSample, hawaits, hcell, if_true]

end Sys2Proof.Machine

open Sys2Proof Sys2Proof.Machine

/-- Settles O37: the lines' levels are disjunctions, and each of the three cells writes its own field. -/
theorem flagCellsAreRead : Obligations.FlagCellsAreRead := by
  refine ⟨fun w o hsync => ⟨w.cca_eq_true o, w.cco_eq_true_of_sync_ended hsync o⟩, fun o s => ?_⟩
  have hexec (h : s.running = true) : exec (.flagCellSample o) s = .next (flagSample o s) := next_whenRunning _ h
  refine ⟨fun h => ?_, fun h => ?_, fun h => ?_⟩ <;>
    (rw [hexec h.1, flagSample_of_before h (by decide) (by decide)]; rfl)
end

section
/-! SUPPORT. The own window start, SYNC and the observed edge (R71 to R74), and what the window notes at its start (R81,
R132). -/

namespace Sys2Proof.Machine

/-! ### What the window start notes -/

/-- SYNC is driven at the own window start by a LOCKED unit that saw no edge more than 2 ms earlier (R72). -/
theorem drivesSync_iff (s : State) :
    (s.trk.refState == .locked && !s.syncTooEarly) = true ↔
      s.trk.refState = .locked ∧ ∀ t, s.win.sync = some t → s.trk.lastEdge + 100000 ≤ t + 2000 := by
  cases hsync : s.win.sync with
  | none => simp [State.syncTooEarly, hsync]
  | some t => simp [State.syncTooEarly, hsync, State.windowStart, ms]

theorem latestDraft_participates_iff (s : State) :
    (s.latestDraft.map Draft.participant).getD false = true ↔
      (∃ d, s.next = some d ∧ d.participant = true)
        ∨ (s.next = none ∧ ∃ d, s.current = some d ∧ d.participant = true) := by
  cases hnext : s.next with
  | some d => simp [State.latestDraft, hnext]
  | none => cases hcurrent : s.current <;> simp [State.latestDraft, hnext, hcurrent]

theorem State.standing_iff (s : State) :
    s.standing = true ↔
      (s.handedOver = true ∨ Config.standingBeforeHandOver = true)
        ∧ ((∃ d, s.next = some d ∧ d.participant = true)
          ∨ (s.next = none ∧ ∃ d, s.current = some d ∧ d.participant = true)) := by
  rw [State.standing, Bool.and_eq_true, Bool.or_eq_true, latestDraft_participates_iff, and_comm]

theorem shadowReport_of_not_standby {key : KeyState} (h : key ≠ .standby) (evidence : Option Evidence) :
    shadowReport key evidence = .none := by
  unfold shadowReport
  split
  · contradiction
  · rfl

theorem shadowReport_ne_none_iff (key : KeyState) (evidence : Option Evidence) :
    shadowReport key evidence ≠ .none ↔ key = .standby ∧ ∃ v, evidence = some v ∧ v.assent = true := by
  by_cases hkey : key = .standby
  · subst hkey
    cases evidence with
    | none => simp [shadowReport]
    | some v =>
      simp only [shadowReport]
      split
      · split <;> simp [*]
      · simp [*]
  · simp [shadowReport_of_not_standby hkey, hkey]

theorem shadowReport_eq_accuse_iff (key : KeyState) (evidence : Option Evidence) :
    shadowReport key evidence = .accuse ↔
      key = .standby
        ∧ ∃ v, evidence = some v ∧ v.assent = true ∧ v.beacon = true ∧ v.coded = true ∧ v.mismatch = true := by
  by_cases hkey : key = .standby
  · subst hkey
    cases evidence with
    | none => simp [shadowReport]
    | some v =>
      simp only [shadowReport]
      split
      · split <;> simp_all
      · simp [*]
  · simp [shadowReport_of_not_standby hkey, hkey]

/-! ### SYNC -/

theorem openWindow_of_waiting {s : State} (h : s.win.phase = .waiting) :
    openWindow s =
      { s with
        win :=
          { s.win with
            phase := .opened
            atStart := some ⟨s.key.state, s.trk.refState, s.standing, shadowReport s.key.state s.dec.evidence⟩
            syncDrive := if s.trk.refState == .locked && !s.syncTooEarly then .atStart else .notDriven
            syncDriving := s.trk.refState == .locked && !s.syncTooEarly } } :=
  if_pos h

theorem RefState.drivesLate_iff (r : RefState) :
    r.drivesLate = true ↔ r = .holdover ∨ r = .stepping ∨ r = .expired := by
  cases r <;> decide

theorem lateSync_of_opened {a : WindowStart} {s : State} (hphase : s.win.phase = .opened) (ha : s.win.atStart = some a) :
    lateSync s =
      if s.win.sync = none ∧ s.win.syncDrive = .notDriven
          ∧ (a.ref = .holdover ∨ a.ref = .stepping ∨ a.ref = .expired) then
        { s with win := { s.win with syncDrive := .late, syncDriving := true } }
      else s := by
  simp only [lateSync, ha, hphase, RefState.drivesLate_iff, true_and]

/-! ### The observed SYNC edge -/

theorem State.watches_iff (t : Instant) (s : State) :
    s.watches t = true ↔ s.trk.lastEdge + 100000 ≤ t + 20000 ∧ t ≤ s.trk.lastEdge + 100000 + 5000 := by
  simp only [State.watches, Bool.and_eq_true, decide_eq_true_eq]
  rfl

theorem State.alignmentOf_eq (t : Instant) (s : State) :
    s.alignmentOf t =
      if t ≤ s.trk.lastEdge + 100000 + 2000 ∧ s.trk.lastEdge + 100000 ≤ t + 2000 then .aligned
      else if s.win.syncDrive = .late ∧ t = s.trk.lastEdge + 100000 + 3000 then .aligned
      else .askew := by
  simp only [State.alignmentOf, within, Bool.and_eq_true, decide_eq_true_eq]
  rfl

theorem observeSync_of_first {t : Instant} {s : State} (hphase : s.win.phase ≠ .over) (hsync : s.win.sync = none)
    (hwatch : s.watches t = true) :
    observeSync t s = { s with win := { s.win with sync := some t, alignment := some (s.alignmentOf t) } } :=
  if_pos ⟨hphase, hsync, hwatch⟩

theorem observeSync_of_ignored {t : Instant} {s : State} (h : s.win.sync ≠ none ∨ s.watches t = false) :
    observeSync t s = s :=
  if_neg fun ⟨_, hsync, hwatch⟩ => h.elim (· hsync) fun hnot => by simp [hnot] at hwatch

end Sys2Proof.Machine

open Sys2Proof Sys2Proof.Machine

/-- Settles O31, row by row; what the window start notes is `State.standing_iff` and the two lemmas on the SHADOW report. -/
theorem windowOpensAndSyncIsDriven : Obligations.WindowOpensAndSyncIsDriven := by
  refine ⟨fun s hrun hphase => ?_, fun a s hrun hphase ha => ?_, fun s hrun => next_whenRunning syncDriveEnd hrun⟩
  · exact ⟨_, _, (next_whenRunning openWindow hrun).trans (congrArg Host.Outcome.next (openWindow_of_waiting hphase)),
      drivesSync_iff s, rfl, rfl, s.standing_iff, shadowReport_ne_none_iff _ _, shadowReport_eq_accuse_iff _ _⟩
  · exact (next_whenRunning lateSync hrun).trans (congrArg Host.Outcome.next (lateSync_of_opened hphase ha))

/-- Settles O32: the edge is taken where it is the first one in the watch interval, and otherwise nothing is. -/
theorem observedEdgeSetsTheAlignment : Obligations.ObservedEdgeSetsTheAlignment := by
  intro t s hrun hphase start
  have hexec : exec (.syncEdgeObserved t) s = .next (observeSync t s) := next_whenRunning _ hrun
  refine ⟨fun hsync hearly hlate => ?_, fun h => ?_⟩
  · rw [hexec, observeSync_of_first hphase hsync ((s.watches_iff t).mpr ⟨hearly, hlate⟩), s.alignmentOf_eq]
  · have hignored : s.win.sync ≠ none ∨ s.watches t = false := by
      refine h.imp_right fun hout => Bool.eq_false_iff.mpr (mt (s.watches_iff t).mp ?_)
      rintro ⟨hearly, hlate⟩
      exact hout.elim (Nat.not_lt.mpr hearly) (Nat.not_lt.mpr hlate)
    rw [hexec, observeSync_of_ignored hignored]
end

section
/-! SUPPORT. The close of a window (R75, R79, R88, R107, R131): what it leaves in the record, the peer table, the key items,
the open minute and the lines, for a window that was read and for a dead one. -/

namespace Sys2Proof.Machine

/-! ### The parts that a close writes -/

theorem closedPeers_getElem (peers : Vector PeerRow 8) (present hold : PosSet) (p : Fin 8) :
    (closedPeers peers present hold)[p] =
      { peers[p] with
        present := present.getLsbD p.val
        holding := hold.getLsbD p.val
        absentRun := if present.getLsbD p.val then 0 else min 255 ((peers[p]).absentRun + 1) } := by
  simp [closedPeers, PeerRow.closed]

/-- A dead window's reading of the peer table: no position present, none holding (R79). -/
theorem closedPeers_neutral_getElem (peers : Vector PeerRow 8) (p : Fin 8) :
    (closedPeers peers 0 0)[p] =
      { peers[p] with present := false, holding := false, absentRun := min 255 ((peers[p]).absentRun + 1) } := by
  rw [closedPeers_getElem, show (0 : PosSet).getLsbD p.val = false from BitVec.getLsbD_zero]
  rfl

section Closed
variable (r : WindowRecord) (splitAccused : Bool) (s : State)

theorem closeWith_winRec : (closeWith r splitAccused s).winRec = some r := State.raiseIf_winRec _ _ _

theorem closeWith_peers : (closeWith r splitAccused s).peers = closedPeers s.peers r.present r.hold :=
  State.raiseIf_peers _ _ _

theorem closeWith_key : (closeWith r splitAccused s).key = keyAtClose r splitAccused s.key := State.raiseIf_key _ _ _

theorem closeWith_dec :
    (closeWith r splitAccused s).dec = { s.dec with openMinute := addKeyers r s.dec.openMinute } :=
  State.raiseIf_dec _ _ _

theorem closeWith_lines :
    (closeWith r splitAccused s).win.phase = .over ∧ (closeWith r splitAccused s).win.pullCca = false
      ∧ (closeWith r splitAccused s).win.driveCco = false := by
  have hwin := State.raiseIf_win (r.alignment == Alignment.askew && min 255 (s.key.askewRun + 1) == 5) .skew
  rw [closeWith, hwin]
  exact ⟨rfl, rfl, rfl⟩

theorem closeWith_ev :
    (closeWith r splitAccused s).ev =
      if r.alignment = .askew ∧ min 255 (s.key.askewRun + 1) = 5 then (s.raise .skew).ev else s.ev := by
  simp only [closeWith, State.raiseIf, Bool.and_eq_true, beq_iff_eq]
  split <;> rfl

end Closed

/-! ### The close of a window that was read -/

theorem nextAskewRun_eq (run : Nat) (a : Alignment) :
    nextAskewRun run a = if a = .askew then min 255 (run + 1) else 0 := by
  cases a <;> rfl

/-- What a yield makes of the key items (R111). -/
theorem KeyCtl.yield_eq (k : KeyCtl) :
    k.yield = { k with state := if k.state = .holding then .yielding else k.state } := by
  unfold KeyCtl.yield
  split <;> rfl

theorem keyAtClose_of_read {r : WindowRecord} (h : r.alignment ≠ .dead) (splitAccused : Bool) (k : KeyCtl) :
    keyAtClose r splitAccused k =
      { k with
        askewRun := nextAskewRun k.askewRun r.alignment
        beaconAbsent := decide (r.hold = 0)
        unsupported := if splitAccused then k.unsupported else 0
        state :=
          if r.alignment = .askew ∧ nextAskewRun k.askewRun r.alignment = 5 ∧ k.state = .holding then .yielding
          else k.state } := by
  have hdead : (r.alignment == .dead) = false := beq_false_of_ne h
  have hbeacon : (r.hold == 0) = decide (r.hold = 0) := rfl
  rw [keyAtClose, hdead, hbeacon]
  split
  next hfifth =>
    have hyields : (r.alignment = .askew ∧ nextAskewRun k.askewRun r.alignment = 5 ∧ k.state = .holding) ↔
        k.state = .holding := ⟨fun h => h.2.2, fun h => ⟨hfifth.1, hfifth.2, h⟩⟩
    rw [KeyCtl.yield_eq]
    simp [hyields]
  next hnot =>
    have hstays : ¬(r.alignment = .askew ∧ nextAskewRun k.askewRun r.alignment = 5 ∧ k.state = .holding) :=
      fun ⟨haskew, hfive, _⟩ => hnot ⟨haskew, hfive⟩
    rw [if_neg hstays]
    simp

/-- The recorded offset is a tenth of a millisecond less than one tenth away (log 9). -/
theorem offsetTenths_bounds (d : Int) : d - 100 < 100 * offsetTenths d ∧ 100 * offsetTenths d < d + 100 := by
  unfold offsetTenths
  split
  · omega
  · split <;> omega

theorem droveAccuse_iff (w : Window) :
    w.droveAccuse = true ↔ w.alignment = some .aligned ∧ w.atStart.map WindowStart.report = some .accuse := by
  simp [Window.droveAccuse]

theorem windowClose_of_after {a : Alignment} {s : State} (h : s.afterSample 66) (hphase : s.win.phase = .opened)
    (ha : s.win.alignment = some a) :
    windowClose s = closeWith (readRecord s a) (s.win.shadow == .split && s.win.droveAccuse) s := by
  obtain ⟨-, -, -, hsampled, hcell⟩ := h
  simp only [windowClose, ha]
  exact if_pos ⟨hphase, hcell, hsampled⟩

theorem addKeyers_eq (r : WindowRecord) (m : Option OpenMinute) :
    addKeyers r m = if r.second = none then m else m.map fun m => { m with keyers := m.keyers ||| r.hold } := by
  cases h : r.second <;> simp [addKeyers, h]

end Sys2Proof.Machine

open Sys2Proof Sys2Proof.Machine

/-- Settles O42: each part of the close, for the record of a window that was read. -/
theorem windowCloseUpdatesTheRecords : Obligations.WindowCloseUpdatesTheRecords := by
  intro a sync s hafter hphase ha hread hsync
  have hclose := windowClose_of_after hafter hphase ha
  have hwin := closeWith_lines (readRecord s a) (s.win.shadow == .split && s.win.droveAccuse) s
  refine ⟨windowClose s, offsetTenths ((sync : Int) - (s.windowStart : Int)), next_whenRunning _ hafter.1,
    windowClose_frame s, ?_, offsetTenths_bounds _, fun p => ?_, ?_⟩
  · rw [hclose, closeWith_winRec, readRecord, hsync]
    rfl
  · rw [hclose, closeWith_peers, closedPeers_getElem]
    rfl
  · rw [hclose]
    refine ⟨hwin.1, hwin.2.1, hwin.2.2, ?_, ?_, ?_⟩
    · rw [closeWith_dec, addKeyers_eq]
      rfl
    · have haccused : (s.win.shadow == .split && s.win.droveAccuse) = true ↔
          s.win.shadow = .split ∧ a = .aligned ∧ s.win.atStart.map WindowStart.report = some .accuse := by
        simp [droveAccuse_iff, ha]
      rw [closeWith_key, keyAtClose_of_read hread]
      simp only [haccused, nextAskewRun_eq]
      rfl
    · have hfifth : a = .askew ∧ (if a = .askew then min 255 (s.key.askewRun + 1) else 0) = 5 ↔
          a = .askew ∧ min 255 (s.key.askewRun + 1) = 5 :=
        and_congr_right fun haskew => by rw [if_pos haskew]
      rw [closeWith_ev]
      simp only [hfifth]
      rfl
end

section
/-! SUPPORT. A window that closes dead (R71, R74, R99, R112): one found dead, and one that an own edge cuts. -/

namespace Sys2Proof.Machine

/-! ### The close of a dead window -/

/-- A window found dead and one cut at an own edge are closed alike, but for the SYNC drive (R71). -/
theorem closeDead_eq_endWindow {s : State} (h : s.win.phase = .opened) :
    closeDead s = { endWindow s with win := (closeDead s).win } := by
  simp only [endWindow, h]
  rfl

theorem closeDead_lines (s : State) :
    (closeDead s).win.phase = .over ∧ (closeDead s).win.pullCca = false ∧ (closeDead s).win.driveCco = false :=
  closeWith_lines _ _ _

/-- A dead window raises no event of its own and leaves the key state. -/
theorem closeWith_deadRecord (s u : State) :
    (closeWith (deadRecord s) false u).key.state = u.key.state ∧ (closeWith (deadRecord s) false u).ev = u.ev := by
  rw [closeWith_key, closeWith_ev]
  exact ⟨rfl, rfl⟩

/-- A yield that the window of the last second was to resolve and gave no BIDDING reading is cancelled (R112). -/
theorem cancelUnreadYield_of_unread {s : State} (hlast : s.lastSecondWindow = true)
    (hbegan : s.win.atStart.map WindowStart.key = some .yielding) (hyielding : s.key.state = .yielding)
    (hunread : s.win.yieldResolved = false) (hrelease : s.key.pendingRelease = false)
    (hfence : s.key.pendingFence = false) :
    cancelUnreadYield s =
      ({ s with win := { s.win with yieldResolved := true }, key := { s.key with state := .holding } }).raise
        .yieldCancelled := by
  simp [cancelUnreadYield, resolveYield, hlast, hbegan, hyielding, hunread, hrelease, hfence]

/-- A missed pass is no matter of the count, the window or the key items. -/
theorem missPass_keeps (s : State) :
    (missPass s).lastSecondWindow = s.lastSecondWindow ∧ (missPass s).win = s.win ∧ (missPass s).key = s.key := by
  rw [missPass_frame]
  exact ⟨rfl, rfl, rfl⟩

theorem deadWindow_of_unheard {s : State} (hphase : s.win.phase = .opened) (hsync : s.win.sync = none) :
    deadWindow s = closeDead s :=
  if_pos ⟨hphase, hsync⟩

end Sys2Proof.Machine

open Sys2Proof Sys2Proof.Machine

/-- Settles O33: what the close leaves is what the end of an open window at an own edge leaves, and a yield is cancelled by the
close. -/
theorem deadWindowIsClosed : Obligations.DeadWindowIsClosed := by
  intro s hrun hphase hsync
  have hdead : deadWindow s = closeDead s := deadWindow_of_unheard hphase hsync
  have hended := closeDead_eq_endWindow hphase
  have hkey : (closeDead s).key = _ := (congrArg State.key hended).trans ((endWindow_key s).2 hphase)
  obtain ⟨hover, hcca, hcco⟩ := closeDead_lines s
  refine ⟨closeDead s, (next_whenRunning _ hrun).trans (congrArg _ hdead), closeDead_frame s, ?_, fun p => ?_, hover,
    hcca, hcco, ?_, ?_, ?_, ?_, ?_, fun r hr => ?_, fun hyielding hlast hbegan hunread hrelease hfence => ?_⟩
  · rw [hended, endWindow_winRec, if_pos hphase]
    rfl
  · rw [hended, endWindow_peers, if_pos hphase]
    exact closedPeers_neutral_getElem s.peers p
  · rw [hkey]
  · rw [hkey]
  · rw [hkey]
  · rw [hkey]
  · rw [hkey]
  · rw [hended, endWindow_nextRec, if_neg (by rw [hphase]; decide), missPass_nextRec, hr, Option.map_some]
  · obtain ⟨elast, ewin, ekey⟩ := missPass_keeps s
    rw [← elast] at hlast
    rw [← ewin] at hbegan hunread
    rw [← ekey] at hyielding hrelease hfence
    obtain ⟨hstate, hev⟩ : (closeDead s).key.state = _ ∧ (closeDead s).ev = _ := closeWith_deadRecord s _
    rw [hstate, State.latched_of_ev hev, cancelUnreadYield_of_unread hlast hbegan hyielding hunread hrelease hfence]
    exact ⟨rfl, State.raise_latches _ _⟩
end

section
/-! SUPPORT. The items of the key controller that count windows, and the peer table, through an own edge (R75, R79, R107, R116,
R121). -/

namespace Sys2Proof.Machine

/-- The items of the key controller that count windows or whole minutes: the askew run (R75), the beacon-absent flag (R107), the
unsupported count (R116) and the listening count (R121). -/
def KeyCtl.windowCounts (k : KeyCtl) : Nat × Bool × Nat × Nat :=
  (k.askewRun, k.beaconAbsent, k.unsupported, k.listening)

/-! ### The parts of an own edge that write key items -/

theorem secondEnds_windowCounts (read : Bool) (e : Instant) (s : State) :
    (secondEnds read e s).key.windowCounts = s.key.windowCounts
      ∧ (secondEnds read e s).key.listenOpen = s.key.listenOpen := by
  obtain ⟨m, b, hkey, -⟩ := secondEnds_key read e s
  rw [hkey]
  exact ⟨rfl, rfl⟩

theorem keyEdge_windowCounts (boundary : Bool) (s : State) :
    (keyEdge boundary s).key.windowCounts = s.key.windowCounts := by
  unfold keyEdge
  dsimp only
  repeat' split
  all_goals rfl

theorem freezeEdge_windowCounts (before : KeyState) (read : Bool) (s : State) :
    (freezeEdge before read s).key.windowCounts = s.key.windowCounts := by
  have hfreeze (key : KeyState) (u : State) : (freeze key read u).key.windowCounts = u.key.windowCounts := by
    obtain hbeyond | hwithin := Nat.lt_or_ge lastMinute (u.trk.minute + 1)
    · rw [freeze_beyond key read u hbeyond]
    · obtain ⟨_, _, _, _, -, hfrozen, -⟩ := freeze_makes key read u hwithin
      rw [hfrozen]
      dsimp only
      split <;> rfl
  exact hfreeze _ (clearAssentPasses s)

theorem proofJudge_windowCounts (s : State) :
    (proofJudge s).key.windowCounts = s.key.windowCounts ∧ (proofJudge s).key.listenOpen = s.key.listenOpen := by
  unfold proofJudge
  repeat' split
  all_goals exact ⟨rfl, rfl⟩

theorem proofBegin_windowCounts (s : State) : (proofBegin s).key.windowCounts = s.key.windowCounts := by
  unfold proofBegin
  split <;> rfl

/-- A minute that is not listened to adds nothing to the listening count (R121). -/
theorem listenBoundary_windowCounts {s : State} (h : s.key.listenOpen = false) :
    (listenBoundary s).key.windowCounts = s.key.windowCounts := by
  simp [listenBoundary, KeyCtl.windowCounts, h]

theorem minuteBoundary_windowCounts (m : Nat) {s : State} (h : s.key.listenOpen = false) :
    (minuteBoundary m s).key.windowCounts = s.key.windowCounts := by
  have hcredited : (takeCredit (closeAirMinute m s).2 s.current (countdowns (closeAirMinute m s).1)).key = s.key := by
    rw [takeCredit_frame, countdowns_frame, closeAirMinute_frame]
  obtain ⟨hjudged, hopen⟩ :=
    proofJudge_windowCounts (takeCredit (closeAirMinute m s).2 s.current (countdowns (closeAirMinute m s).1))
  rw [hcredited] at hjudged hopen
  unfold minuteBoundary
  dsimp only
  rw [proofBegin_windowCounts, handOver_frame]
  dsimp only
  rw [listenBoundary_windowCounts, zoneDue_frame]
  · exact hjudged
  · rw [zoneDue_frame]
    exact hopen.trans h

/-! ### The whole own edge -/

/-- After the end of its window an own edge leaves the counts, where that end broke off the listening minute. -/
theorem ownEdge_windowCounts {s : State} (h : (endWindow s).key.listenOpen = false) :
    (ownEdge s).key.windowCounts = (endWindow s).key.windowCounts := by
  have hend (t : State) : (proofReferenceCheck (beginSecond t)).key.windowCounts = t.key.windowCounts := by
    obtain ⟨b, hkey⟩ := proofReferenceCheck_key (beginSecond t)
    rw [hkey]
    rfl
  obtain ⟨hcounts, hopen⟩ := secondEnds_windowCounts s.windowRead s.trk.nextEdge (endWindow s)
  rw [← State.edgeCounted_key] at hcounts hopen
  rw [← hcounts]
  cases hboundary : s.trk.boundaryNext with
  | true =>
    rw [ownEdge_of_boundary s hboundary, hend, keyEdge_windowCounts, minuteBoundary_windowCounts _ (hopen.trans h)]
  | false =>
    cases hfreeze : s.trk.freezeNext with
    | true => rw [ownEdge_of_freeze s hfreeze, hend, freezeEdge_windowCounts, keyEdge_windowCounts]
    | false => rw [ownEdge_of_plain s hboundary hfreeze, hend, keyEdge_windowCounts]

/-- After the end of its window an own edge leaves the peer table, but that a freeze clears the assent passes (R79). -/
theorem ownEdge_peers (s : State) :
    (ownEdge s).peers =
      if s.trk.freezeNext then (endWindow s).peers.map fun row => { row with assentPass := none }
      else (endWindow s).peers := by
  have hcounted := s.edgeCounted_window.2.2.1
  cases hfreeze : s.trk.freezeNext with
  | true =>
    rw [(ownEdge_eq_edgeFrozen s hfreeze).2.2.2.2.2.2.1, State.edgeFrozen, freeze_frame, State.edgeKeyed_frame]
    rfl
  | false =>
    cases hboundary : s.trk.boundaryNext with
    | true =>
      rw [ownEdge_of_boundary s hboundary, proofReferenceCheck_eq, keyEdge_frame, minuteBoundary_frame]
      exact hcounted
    | false =>
      rw [ownEdge_of_plain s hboundary hfreeze, proofReferenceCheck_eq, keyEdge_frame]
      exact hcounted

theorem ownEdge_peers_getElem (s : State) (p : Fin 8) :
    ∃ pass, (ownEdge s).peers[p] = { (endWindow s).peers[p] with assentPass := pass } := by
  rw [ownEdge_peers]
  split
  · exact ⟨none, by simp⟩
  · exact ⟨_, rfl⟩

end Sys2Proof.Machine

open Sys2Proof Sys2Proof.Machine

/-- Settles O19: the end of the window leaves the record, the rows and the counts of a dead window, and the rest of the edge
keeps them; the window of the second that begins drives nothing. -/
theorem ownEdgeCutsAnOpenWindow : Obligations.OwnEdgeCutsAnOpenWindow := by
  intro s hrun hphase
  have hkey := (endWindow_key s).2 hphase
  have hcounts : (ownEdge s).key.windowCounts = (0, true, 0, 0) := by
    rw [ownEdge_windowCounts (by rw [hkey]), hkey]
    rfl
  simp only [KeyCtl.windowCounts, Prod.mk.injEq] at hcounts
  obtain ⟨haskew, hbeacon, hunsupported, hlistening⟩ := hcounts
  obtain ⟨-, -, -, -, -, hwinRec⟩ := ownEdge_static s
  refine ⟨_, exec_ownEdge_of_running s hrun, ?_, fun p => ?_, haskew, hbeacon, hunsupported, hlistening, ?_⟩
  · rw [hwinRec, endWindow_winRec, if_pos hphase]
    rfl
  · obtain ⟨pass, hrow⟩ := ownEdge_peers_getElem s p
    rw [hrow, endWindow_peers, if_pos hphase, closedPeers_neutral_getElem]
    exact ⟨rfl, rfl, rfl, rfl⟩
  · rw [ownEdge_win]
    exact ⟨rfl, rfl, rfl⟩
end

section
/-! SUPPORT. What the unit drives in a cell (Table 5.2): the PRESENT cell in every live window (R77), every other cell only in
an ALIGNED one (R74). -/

namespace Sys2Proof.Machine

/-! ### The conditions of Table 5.2 -/

/-- The HOLD cell is driven by a unit that held the key at the own window start, but for a yield in the last second (R78). -/
theorem State.drivesHold_iff (a : WindowStart) (s : State) :
    s.drivesHold a = true ↔ a.key = .holding ∨ (a.key = .yielding ∧ s.lastSecondWindow = false) := by
  unfold State.drivesHold
  cases a.key <;> simp

theorem State.contends_iff (s : State) :
    s.contends = true ↔
      s.windowPass ≠ none ∧ s.next ≠ none ∧ ∃ r, s.nextRec = some r ∧ r.standing = some .contender := by
  cases hrecord : s.nextRec <;> simp [State.contends, hrecord, Option.isSome_iff_ne_none, and_assoc]

/-! ### The map of an ALIGNED window -/

section Table
variable (a : WindowStart) (s : State)

/-- The cells in which CCO is driven: the rows of the map stand at different cells, so that the row of a cell is the one
disjunct that can hold. -/
theorem alignedDrive_driveCco_iff (n : Nat) :
    (alignedDrive a n s).driveCco = true ↔
      (n = 2 + 2 * s.straps.position.val ∧ (a.key = .holding ∨ (a.key = .yielding ∧ s.lastSecondWindow = false)))
        ∨ (n = 17 ∧ a.report = .accuse)
        ∨ (n = 18 ∧ a.standing = true ∧ s.req.steady = true)
        ∨ (n = 19 ∧ a.standing = true ∧ s.req.quiet = true)
        ∨ (n = 20 ∧ a.key = .yielding ∧ s.lastSecondWindow = true)
        ∨ (n = 53 + s.straps.position.val ∧ s.contends = true ∧ s.win.equalsResult = true)
        ∨ (n = 61 ∧ s.win.bidder = true) := by
  have hposition := s.straps.position.isLt
  rw [← s.drivesHold_iff]
  unfold alignedDrive
  repeat' split
  all_goals grind [CellDrive.cco, CellDrive.cca, CellDrive.neutral]

/-- The cells in which CCA is pulled low. -/
theorem alignedDrive_pullCca_iff (n : Nat) :
    (alignedDrive a n s).pullCca = true ↔
      (n = 17 ∧ a.report = .clear)
        ∨ (n = 18 ∧ a.standing = true ∧ s.req.steady = false)
        ∨ (21 ≤ n ∧ n ≤ 52 ∧ s.win.digestDriving = true ∧ s.digestBit n = false)
        ∨ (62 ≤ n ∧ n ≤ 66 ∧ s.win.bidDriving = true ∧ s.straps.bidValue.getLsbD (66 - n) = false) := by
  have hposition := s.straps.position.isLt
  unfold alignedDrive
  repeat' split
  all_goals grind [CellDrive.cco, CellDrive.cca, CellDrive.neutral]

theorem alignedDrive_steady :
    alignedDrive a 18 s = if a.standing then ⟨!s.req.steady, s.req.steady⟩ else .neutral := by
  have hposition := s.straps.position.isLt
  simp [alignedDrive, show 18 ≠ 2 + 2 * s.straps.position.val by omega]

theorem alignedDrive_quiet : alignedDrive a 19 s = .cco (a.standing && s.req.quiet) := by
  have hposition := s.straps.position.isLt
  simp [alignedDrive, show 19 ≠ 2 + 2 * s.straps.position.val by omega]

end Table

/-! ### The cell in progress -/

theorem State.cellDrive_of_present {s : State} (h : s.win.cell = 1 + 2 * s.straps.position.val) :
    s.cellDrive = .cco true :=
  if_pos h

section Other
variable {s : State} (hother : s.win.cell ≠ 1 + 2 * s.straps.position.val)
include hother

theorem State.cellDrive_of_unaligned (h : s.win.alignment ≠ some .aligned) : s.cellDrive = .neutral := by
  rw [State.cellDrive, if_neg hother]
  split
  next haligned _ => exact absurd haligned h
  next => rfl

theorem State.cellDrive_of_aligned {a : WindowStart} (h : s.win.alignment = some .aligned) (ha : s.win.atStart = some a) :
    s.cellDrive = alignedDrive a s.win.cell s := by
  rw [State.cellDrive, if_neg hother, h, ha]

end Other

/-! ### A cell begins (R73) -/

/-- The next cell is in progress, not yet driven: the DIGEST field is entered at cell 21 and the BIDVALUE field at cell 62. -/
def State.cellBegun (s : State) : State :=
  { s with
    win :=
      { s.win with
        cell := s.win.cell + 1
        sampled := false
        digestDriving :=
          if s.win.cell + 1 = 21 then s.win.alignment == some Alignment.aligned && s.contends else s.win.digestDriving
        bidDriving := if s.win.cell + 1 = 62 then s.win.bidder else s.win.bidDriving } }

theorem cellStart_of_ready {s : State} (hphase : s.win.phase ≠ .over) (halignment : s.win.alignment ≠ none)
    (hcell : s.win.cell + 1 ≤ 66) (hready : s.win.cell = 0 ∨ s.win.sampled = true) :
    cellStart s = s.cellBegun.driveCell :=
  if_pos ⟨Window.live_of hphase halignment, hcell, hready⟩

theorem State.cellBegun_digestDriving_iff {s : State} (haligned : s.win.alignment = some .aligned)
    (hentered : s.win.cell + 1 = 21) : s.cellBegun.win.digestDriving = true ↔ s.contends = true := by
  simp [State.cellBegun, hentered, haligned]

end Sys2Proof.Machine

open Sys2Proof Sys2Proof.Machine

/-- Settles O34: the cell that begins is the own PRESENT cell, or one of a window that is not ALIGNED, or one of the map. -/
theorem cellsAreDrivenByTheMap : Obligations.CellsAreDrivenByTheMap := by
  intro a n s hrun hphase ha halignment hn hlast hready
  subst hn
  have hstart : cellStart s = s.cellBegun.driveCell := cellStart_of_ready hphase halignment hlast hready
  refine ⟨_, (next_whenRunning _ hrun).trans (congrArg _ hstart), rfl, rfl, rfl, ?_⟩
  intro p aligned contends other
  refine ⟨fun hpresent => ?_, fun hother hunaligned => ?_, fun hother haligned => ?_⟩
  · rw [State.driveCell_win, State.cellDrive_of_present (s := s.cellBegun) hpresent]
    exact ⟨rfl, rfl⟩
  · rw [State.driveCell_win, State.cellDrive_of_unaligned (s := s.cellBegun) hother hunaligned]
    exact ⟨rfl, rfl⟩
  · have hcontends : s.contends = true ↔ contends := s.contends_iff
    have hdrive : s.cellBegun.cellDrive = alignedDrive a (s.win.cell + 1) s.cellBegun :=
      State.cellDrive_of_aligned hother haligned ha
    rw [State.driveCell_win, hdrive]
    refine ⟨fun hn => if_neg hn, fun hn => ?_, rfl, ?_, ?_⟩
    · exact (State.cellBegun_digestDriving_iff haligned hn).trans hcontends
    · rw [← hcontends]
      exact alignedDrive_driveCco_iff a s.cellBegun _
    · exact alignedDrive_pullCca_iff a s.cellBegun _
end

section
/-! SUPPORT. The local requests, the yield and the readmission as the controller asks for them (R86, R111, R118). -/

namespace Sys2Proof.Machine

/-! ### The rows -/

theorem exec_requestSet_of_hears {s : State} (h : s.hears) (x y : Byte) :
    exec (.requestSet x y) s = .next (respond 0x28 (requestSet x y s).1 [] (requestSet x y s).2) :=
  congrArg Host.Outcome.next (command_of_hears (.requestSet x y) s h)

theorem exec_keyYield_of_hears {s : State} (h : s.hears) :
    exec .keyYield s = .next (respond 0x30 (keyYield s).1 [] (keyYield s).2) :=
  congrArg Host.Outcome.next (command_of_hears .keyYield s h)

theorem exec_readmit_of_hears {s : State} (h : s.hears) :
    exec .readmit s = .next (respond 0x31 (readmit s).1 [] (readmit s).2) :=
  congrArg Host.Outcome.next (command_of_hears .readmit s h)

/-! ### REQUEST SET (R86) -/

theorem flagOf_of_flag {b : Byte} (h : b.toNat ≤ 1) : flagOf b = some (decide (b = 1)) := by
  obtain rfl | rfl : b = 0 ∨ b = 1 := by bv_omega
  all_goals rfl

theorem flagOf_of_large {b : Byte} (h : 1 < b.toNat) : flagOf b = none := by
  have h0 : b ≠ 0 := by rintro rfl; exact absurd h (by decide)
  have h1 : b ≠ 1 := by rintro rfl; exact absurd h (by decide)
  rw [flagOf, if_neg h0, if_neg h1]

/-- The local requests as a REQUEST SET of two flags has them. -/
def State.requesting (x y : Byte) (s : State) : State := { s with req := ⟨decide (x = 1), decide (y = 1)⟩ }

theorem requestSet_of_flags {x y : Byte} (hx : x.toNat ≤ 1) (hy : y.toNat ≤ 1) (s : State) :
    requestSet x y s = (.done, redriveFlags (s.requesting x y)) := by
  rw [requestSet, flagOf_of_flag hx, flagOf_of_flag hy]
  rfl

theorem not_decide_eq_one_of_flag {b : Byte} (h : b.toNat ≤ 1) : (!decide (b = 1)) = decide (b = 0) := by
  obtain rfl | rfl : b = 0 ∨ b = 1 := by bv_omega
  all_goals rfl

theorem requestSet_of_large {x y : Byte} (h : 1 < x.toNat ∨ 1 < y.toNat) (s : State) :
    requestSet x y s = (.range, s) := by
  obtain h | h := h
  · rw [requestSet, flagOf_of_large h]
  · rw [requestSet, flagOf_of_large h]
    cases flagOf x <;> rfl

theorem redriveFlags_of_other {s : State}
    (h : s.win.phase = .over ∨ s.win.sampled = true ∨ (s.win.cell ≠ 18 ∧ s.win.cell ≠ 19)) : redriveFlags s = s := by
  refine if_neg fun ⟨hlive, hcell, hunread⟩ => ?_
  obtain hover | hread | ⟨hnot18, hnot19⟩ := h
  · simp [Window.live, hover] at hlive
  · simp [hread] at hunread
  · exact hcell.elim hnot18 hnot19

/-- The window after a REQUEST SET has no part changed but the lines (R86). -/
theorem redriveFlags_win (s : State) :
    (redriveFlags s).win =
      { s.win with pullCca := (redriveFlags s).win.pullCca, driveCco := (redriveFlags s).win.driveCco } := by
  unfold redriveFlags
  split <;> rfl

/-- A STEADY or QUIET cell of an ALIGNED window that is not yet read is driven as the map says. -/
theorem redriveFlags_of_flagCell {a : WindowStart} {s : State} (hphase : s.win.phase ≠ .over)
    (haligned : s.win.alignment = some .aligned) (ha : s.win.atStart = some a) (hunread : s.win.sampled = false)
    (hcell : s.win.cell = 18 ∨ s.win.cell = 19) :
    (redriveFlags s).win.driveCco = (alignedDrive a s.win.cell s).driveCco
      ∧ (redriveFlags s).win.pullCca = (alignedDrive a s.win.cell s).pullCca := by
  have hposition := s.straps.position.isLt
  have hlive : s.win.live = true := Window.live_of hphase (by simp [haligned])
  have hdrive : s.cellDrive = alignedDrive a s.win.cell s := State.cellDrive_of_aligned (by omega) haligned ha
  rw [redriveFlags, if_pos ⟨hlive, hcell, by rw [hunread]; rfl⟩, State.driveCell_win, hdrive]
  exact ⟨rfl, rfl⟩

/-! ### KEY YIELD and READMIT (R111, R118) -/

theorem keyYield_of_holding {s : State} (h : s.key.state = .holding) :
    keyYield s = (.done, { s with key := { s.key with state := .yielding } }) := by
  simp [keyYield, KeyCtl.yield_eq, h]

theorem keyYield_of_other {s : State} (h : s.key.state ≠ .holding) : keyYield s = (.state, s) := if_neg h

theorem readmit_of_fenced {s : State} (h : s.key.state = .fenced) :
    readmit s = (.done, { s with key := { s.key with state := .proving, proof := Proof.reset } }) :=
  if_pos h

theorem readmit_of_other {s : State} (h : s.key.state ≠ .fenced) : readmit s = (.state, s) := if_neg h

end Sys2Proof.Machine

open Sys2Proof Sys2Proof.Machine

/-- Settles O54: each command in its performed and its refused form, and a REQUEST SET in a flag cell by `alignedDrive`. -/
theorem requestYieldAndReadmitCommands : Obligations.RequestYieldAndReadmitCommands := by
  intro x y s hhears
  refine ⟨fun hx hy => ?_, fun hlarge => ?_, fun hholding => ?_, fun hnot => ?_, fun hfenced => ?_, fun hnot => ?_⟩
  · refine ⟨(redriveFlags (s.requesting x y)).win, ?_, fun hother => ?_, redriveFlags_win (s.requesting x y),
      fun a hphase haligned ha hunread => ?_⟩
    · rw [exec_requestSet_of_hears hhears, requestSet_of_flags hx hy, redriveFlags_frame]
      rfl
    · rw [redriveFlags_of_other (s := s.requesting x y) hother]
      rfl
    · have hdriven := redriveFlags_of_flagCell (s := s.requesting x y) hphase haligned ha hunread
      refine ⟨fun hcell => ?_, fun hcell => ?_⟩
      · obtain ⟨hcco, hcca⟩ := hdriven (.inl hcell)
        rw [hcco, hcca, show (s.requesting x y).win.cell = 18 from hcell, alignedDrive_steady, ← not_decide_eq_one_of_flag hx]
        cases a.standing <;> exact ⟨rfl, rfl⟩
      · obtain ⟨hcco, hcca⟩ := hdriven (.inr hcell)
        rw [hcco, hcca, show (s.requesting x y).win.cell = 19 from hcell, alignedDrive_quiet]
        exact ⟨rfl, rfl⟩
  · rw [exec_requestSet_of_hears hhears, requestSet_of_large hlarge]
  · rw [exec_keyYield_of_hears hhears, keyYield_of_holding hholding]
  · rw [exec_keyYield_of_hears hhears, keyYield_of_other hnot]
  · rw [exec_readmit_of_hears hhears, readmit_of_fenced hfenced]
    rfl
  · rw [exec_readmit_of_hears hhears, readmit_of_other hnot]
end

section
/-! SUPPORT. The PRESENT and HOLD cells at their sample points, and what a HOLD cell that reads 1 does (R77, R78, R113, R114). -/

namespace Sys2Proof.Machine

theorem KeyState.isHolder_iff (k : KeyState) : k.isHolder = true ↔ k = .holding ∨ k = .yielding := by
  cases k <;> decide

section Cells
variable {p : Fin 8} {s : State} (o : OthersDrive)

theorem holdSample_of_presentCell (h : s.beforeSample (1 + 2 * p.val)) :
    holdSample o s =
      { s with
        win :=
          { s.win with
            sampled := true
            present := if s.win.cco o then s.win.present ||| (1#8 <<< p.val) else s.win.present } } := by
  have hp := p.isLt
  have hawaits : s.win.awaits 1 16 = true := s.awaits_of_beforeSample h (by omega) (by omega)
  obtain ⟨-, -, -, -, hcell⟩ := h
  have hodd : s.win.cell % 2 = 1 := by omega
  have hposition : (s.win.cell - 1) / 2 = p.val := by omega
  rw [holdSample, if_pos hawaits, if_pos hodd, hposition]
  rfl

/-- The HOLD cell of a position as it enters the HOLD set, before anything else is made of it. -/
def State.holdRead (p : Fin 8) (o : OthersDrive) (s : State) : State :=
  { s with
    win :=
      { s.win with
        sampled := true
        hold := if s.win.cco o then s.win.hold ||| (1#8 <<< p.val) else s.win.hold } }

theorem holdSample_of_holdCell (h : s.beforeSample (2 + 2 * p.val)) :
    holdSample o s = if s.win.cco o then takeHold p.val (s.holdRead p o) else s.holdRead p o := by
  have hp := p.isLt
  have hawaits : s.win.awaits 1 16 = true := s.awaits_of_beforeSample h (by omega) (by omega)
  obtain ⟨-, -, -, -, hcell⟩ := h
  have heven : ¬s.win.cell % 2 = 1 := by omega
  have hposition : (s.win.cell - 1) / 2 = p.val := by omega
  rw [holdSample, if_pos hawaits, if_neg heven, hposition]
  rfl

end Cells

/-! ### A HOLD cell that reads 1 -/

section Taken
variable {p : Fin 8} {s : State}

theorem takeHold_of_foreign (hholder : s.key.state = .holding ∨ s.key.state = .yielding)
    (hforeign : p ≠ s.straps.position ∨ (s.lastSecondWindow = true ∧ s.holdKey = .yielding)) :
    takeHold p.val s = s.collide s.win.samplePoint := by
  rw [takeHold, if_pos (s.key.state.isHolder_iff.mpr hholder), if_pos (hforeign.imp_left (mt Fin.ext))]

theorem takeHold_of_own (hholder : s.key.state = .holding ∨ s.key.state = .yielding)
    (hown : ¬(p ≠ s.straps.position ∨ (s.lastSecondWindow = true ∧ s.holdKey = .yielding))) : takeHold p.val s = s := by
  rw [takeHold, if_pos (s.key.state.isHolder_iff.mpr hholder),
    if_neg (mt (Or.imp_left (mt (congrArg Fin.val))) hown)]

theorem takeHold_of_not_holder (hholder : ¬(s.key.state = .holding ∨ s.key.state = .yielding)) :
    takeHold p.val s = if p = s.straps.position then s.raise .collision else s := by
  rw [takeHold, if_neg (mt s.key.state.isHolder_iff.mp hholder)]
  simp only [Fin.ext_iff]

end Taken
end Sys2Proof.Machine

open Sys2Proof Sys2Proof.Machine

/-- Settles O35: a PRESENT cell enters its set, and a HOLD cell that reads 1 is a collision, a note of one, or nothing. -/
theorem presentAndHoldCellsAreRead : Obligations.PresentAndHoldCellsAreRead := by
  intro p o s
  have hexec (hrun : s.running = true) : exec (.holdCellSample o) s = .next (holdSample o s) := next_whenRunning _ hrun
  refine ⟨fun h => by rw [hexec h.1, holdSample_of_presentCell o h], fun h => ?_⟩
  intro s1 holder began foreign
  have hread : s1 = s.holdRead p o := rfl
  have hbegan : began = s1.holdKey := by
    simp only [began, s1, State.holdKey]
    cases s.win.atStart <;> rfl
  have hforeign : foreign ↔ p ≠ s1.straps.position ∨ (s1.lastSecondWindow = true ∧ s1.holdKey = .yielding) := by
    rw [← hbegan]
    rfl
  rw [hexec h.1, holdSample_of_holdCell o h, ← hread]
  refine ⟨fun hone hholder hcollides => ?_, fun hone hholder hown => ?_, fun hone hholder => ?_, fun hzero => ?_⟩
  · rw [if_pos hone, takeHold_of_foreign (s := s1) hholder (hforeign.mp hcollides)]
    exact ⟨_, rfl, s1.collide_collidesTo _⟩
  · rw [if_pos hone, takeHold_of_own (s := s1) hholder (mt hforeign.mpr hown)]
  · rw [if_pos hone, takeHold_of_not_holder (s := s1) hholder]
  · rw [if_neg (by rw [hzero]; decide)]
end

section
/-! SUPPORT. The SHADOW cell at its sample point (R82), and what its outcome does to the key controller (R115, R116). -/

namespace Sys2Proof.Machine

theorem shadowOutcome_eq (cca cco : Bool) :
    shadowOutcome cca cco = if cco = false then .none else if cca then .unanimous else .split := by
  cases cco <;> rfl

/-- The SHADOW cell with its outcome, before the key controller takes it. -/
def State.shadowRead (outcome : ShadowOutcome) (s : State) : State :=
  { s with win := { s.win with sampled := true, shadow := outcome } }

theorem shadowSample_of_before {s : State} (h : s.beforeSample 17) (o : OthersDrive) :
    shadowSample o s = takeShadow (s.shadowRead (shadowOutcome (s.win.cca o) (s.win.cco o))) :=
  if_pos (s.awaits_of_beforeSample h (by decide) (by decide))

theorem KeyCtl.accusable_iff (k : KeyCtl) :
    k.accusable = true ↔ (k.state = .holding ∨ k.state = .yielding) ∧ 2 ≤ k.heldEdges := by
  rw [KeyCtl.accusable, Bool.and_eq_true, KeyState.isHolder_iff, decide_eq_true_eq]

section Outcome
variable {s : State}

theorem takeShadow_of_none (h : s.win.shadow = .none) : takeShadow s = s := by
  simp only [takeShadow, h]

theorem takeShadow_of_unanimous (h : s.win.shadow = .unanimous) :
    takeShadow s = if s.key.accusable then { s with key := { s.key with pendingFence := true } } else s := by
  simp only [takeShadow, h]

theorem takeShadow_of_split (h : s.win.shadow = .split) :
    takeShadow s =
      if s.win.droveAccuse ∧ s.key.state = .standby then
        if 2 ≤ s.key.unsupported then
          ({ s with key := { s.key with unsupported := 0, state := .fenced } }.raise .shadowSplit).raise .fenced
        else { s with key := { s.key with unsupported := s.key.unsupported + 1 } }.raise .shadowSplit
      else s := by
  simp only [takeShadow, h, Nat.reduceLeDiff]

end Outcome
end Sys2Proof.Machine

open Sys2Proof Sys2Proof.Machine

/-- Settles O36, outcome by outcome. -/
theorem shadowCellIsRead : Obligations.ShadowCellIsRead := by
  intro o s h outcome s1 accused accused'
  have hread : exec (.shadowSample o) s = .next (takeShadow s1) := by
    refine (next_whenRunning _ h.1).trans (congrArg _ ((shadowSample_of_before h o).trans ?_))
    rw [shadowOutcome_eq]
    rfl
  have haccused : s1.key.accusable = true ↔ accused := s.key.accusable_iff
  have hdrove : (s1.win.droveAccuse = true ∧ s1.key.state = .standby) ↔ accused' := by
    rw [droveAccuse_iff, Option.map_eq_some_iff, and_assoc]
  rw [hread]
  refine ⟨fun hnone => ?_, fun hunanimous hholder => ?_, fun hunanimous hnot => ?_, fun hsplit hnot => ?_,
    fun hsplit hdriven hfew => ?_, fun hsplit hdriven hmany => ?_⟩
  · rw [takeShadow_of_none hnone]
  · rw [takeShadow_of_unanimous hunanimous, if_pos (haccused.mpr hholder)]
  · rw [takeShadow_of_unanimous hunanimous, if_neg (mt haccused.mp hnot)]
  · rw [takeShadow_of_split hsplit, if_neg (mt hdrove.mp hnot)]
  · rw [takeShadow_of_split hsplit, if_pos (hdrove.mpr hdriven), if_neg (Nat.not_le.mpr hfew)]
  · rw [takeShadow_of_split hsplit, if_pos (hdrove.mpr hdriven), if_pos hmany]
end

section
/-! SUPPORT. The DIGEST field, the pass result and the ASSENT cells (R87, R92, R93). -/

namespace Sys2Proof.Machine

/-- A unit goes on driving a dropout field unless it left CCA released and reads 0 (R87). -/
theorem stillDriving_iff (driving pulled reads : Bool) :
    stillDriving driving pulled reads = true ↔ driving = true ∧ ¬(pulled = false ∧ reads = false) := by
  cases driving <;> cases pulled <;> cases reads <;> decide

theorem digestSample_of_before {n : Nat} {s : State} (h : s.beforeSample n) (hfirst : 21 ≤ n) (hlast : n ≤ 52)
    (o : OthersDrive) :
    digestSample o s =
      { s with
        win :=
          { s.win with
            sampled := true
            digestRead := (s.win.digestRead <<< 1) ||| (if s.win.cca o then 1#32 else 0#32)
            digestDriving := stillDriving s.win.digestDriving s.win.pullCca (s.win.cca o) } } :=
  if_pos (s.awaits_of_beforeSample h hfirst hlast)

theorem passResult_of_after {s : State} (h : s.afterSample 52) (hopen : s.win.passResult = none)
    (hpass : s.windowPass ≠ none) :
    passResult s =
      { s with
        win :=
          { s.win with
            passResult := some s.win.digestRead
            equalsResult := decide (s.next.map Draft.digest = some s.win.digestRead) } } := by
  obtain ⟨-, hphase, halignment, hsampled, hcell⟩ := h
  refine (if_pos ⟨Window.live_of hphase halignment, hcell, hsampled, hopen, Option.isSome_iff_ne_none.mpr hpass⟩).trans ?_
  have hequals : (s.next.map Draft.digest == some s.win.digestRead) =
      decide (s.next.map Draft.digest = some s.win.digestRead) := by
    rw [Bool.eq_iff_iff, beq_iff_eq, decide_eq_true_eq]
  rw [hequals]

/-! ### The ASSENT cells -/

theorem assentedPeers_getElem (peers : Vector PeerRow 8) (p pass : Nat) (q : Fin 8) :
    (assentedPeers peers p pass)[q] = if q.val = p then (peers[q]).assented pass else peers[q] := by
  simp [assentedPeers]

theorem assentSample_of_before {p : Fin 8} {pass : Nat} {s : State} (h : s.beforeSample (53 + p.val))
    (hpass : s.windowPass = some pass) (o : OthersDrive) :
    assentSample o s =
      { s with
        win :=
          { s.win with
            sampled := true, assents := if s.win.cco o then s.win.assents ||| (1#8 <<< p.val) else s.win.assents }
        peers := if s.win.cco o then assentedPeers s.peers p.val pass else s.peers } := by
  have hp := p.isLt
  have hawaits : s.win.awaits 53 60 = true := s.awaits_of_beforeSample h (by omega) (by omega)
  obtain ⟨-, -, -, -, hcell⟩ := h
  have hposition : s.win.cell - 53 = p.val := by omega
  rw [assentSample, if_pos hawaits, hposition, hpass]
  cases s.win.cco o <;> rfl

end Sys2Proof.Machine

open Sys2Proof Sys2Proof.Machine

/-- Settles O39, row by row; an ASSENT cell that reads 1 writes its position's row alone. -/
theorem passCellsAreRead : Obligations.PassCellsAreRead := by
  refine ⟨fun n o s hfirst hlast h => ?_, fun s h hopen hpass => ?_, fun p pass o s h hpass => ?_⟩
  · exact ⟨_, (next_whenRunning _ h.1).trans (congrArg _ (digestSample_of_before h hfirst hlast o)),
      stillDriving_iff _ _ _⟩
  · exact (next_whenRunning _ h.1).trans (congrArg _ (passResult_of_after h hopen hpass))
  · refine ⟨_, (next_whenRunning _ h.1).trans (congrArg _ (assentSample_of_before h hpass o)), rfl, fun hzero => ?_,
      fun hone => ?_⟩
    · simp [hzero]
    · simp only [hone, if_true, assentedPeers_getElem]
      exact ⟨trivial, fun q hq => if_neg (mt Fin.ext hq), rfl, rfl, rfl⟩
end

section
/-! SUPPORT. The decision on a pass (R94, R96, R97, R99, R111): what a pass makes of a record, and what the unit makes of the
decision. -/

namespace Sys2Proof.Machine

/-! ### A record at cell 60 (R94, R99) -/

section Pass
variable {roll : Nat} {r : ConcordRecord} {p : PassReading} {participant equal : Bool}

theorem ConcordRecord.onPass_of_settled (h : r.outcome ≠ .pending) : r.onPass roll p participant equal = r := if_pos h

theorem ConcordRecord.onPass_of_quorum (h : r.outcome = .pending) (hquorum : quorum roll ≤ p.tally) :
    r.onPass roll p participant equal = r.decided .concord p participant equal := by
  simp [ConcordRecord.onPass, h, hquorum]

/-- Short of a quorum NONE is reached by an empty pass or the third one, but a BLIND record learns it only from a third pass that
is not empty. -/
theorem ConcordRecord.onPass_of_none (h : r.outcome = .pending) (hshort : p.tally < quorum roll)
    (hnone : (r.standing ≠ some .blind ∧ (p.tally = 0 ∨ p.pass = 3))
      ∨ (r.standing = some .blind ∧ p.pass = 3 ∧ p.tally ≠ 0)) :
    r.onPass roll p participant equal = r.decided .none p participant equal := by
  have hnot : ¬quorum roll ≤ p.tally := Nat.not_le.mpr hshort
  obtain ⟨hsighted, hlast⟩ | ⟨hblind, hthird, hassents⟩ := hnone
  · simp [ConcordRecord.onPass, h, hnot, hsighted, hlast]
  · simp [ConcordRecord.onPass, h, hnot, hblind, hthird, Nat.one_le_iff_ne_zero.mpr hassents]

theorem ConcordRecord.onPass_of_blind (h : r.outcome = .pending) (hshort : p.tally < quorum roll)
    (hblind : r.standing = some .blind) (hopen : p.tally = 0 ∨ p.pass ≠ 3) : r.onPass roll p participant equal = r := by
  have hnot : ¬quorum roll ≤ p.tally := Nat.not_le.mpr hshort
  have hundecided : ¬(p.pass = 3 ∧ 1 ≤ p.tally) := by omega
  simp [ConcordRecord.onPass, h, hnot, hblind, hundecided]

theorem ConcordRecord.onPass_of_next (h : r.outcome = .pending) (hshort : p.tally < quorum roll)
    (hsighted : r.standing ≠ some .blind) (hassents : p.tally ≠ 0) (hearly : p.pass ≠ 3) :
    r.onPass roll p participant equal =
      { r with
        nextPass := some (p.pass + 1)
        standing := if r.standing = some .contender ∧ equal then some .left else r.standing } := by
  have hnot : ¬quorum roll ≤ p.tally := Nat.not_le.mpr hshort
  simp [ConcordRecord.onPass, h, hnot, hsighted, hassents, hearly]

end Pass

/-- The role that R96 gives, by the draft's digest and the pass result. -/
theorem roleFor_eq (d : Draft) (o : RecordOutcome) (v : Word32) :
    roleFor d.participant o (decide (d.digest = v)) =
      if d.participant = false then .abstain else if o = .concord ∧ d.digest = v then .assent else .dissent := by
  simp [roleFor]

/-! ### What follows from a decision (R97, R111) -/

section Effects
variable {before after : ConcordRecord} {participant : Bool} {s : State}

theorem decisionEffects_of_open (h : after.outcome = .pending) : decisionEffects before after participant s = s :=
  if_neg fun hdecided => hdecided.2 h

theorem decisionEffects_of_concord (hbefore : before.outcome = .pending) (hafter : after.outcome = .concord) :
    decisionEffects before after participant s =
      State.raiseIf (after.role == some .dissent) .dissent
        { s with
          key := if s.key.state = .holding ∧ after.role ≠ some .assent then { s.key with state := .yielding } else s.key } := by
  unfold decisionEffects KeyCtl.yield
  by_cases hassent : after.role = some .assent <;> simp [hbefore, hafter, hassent, State.raiseIf]

theorem decisionEffects_of_none (hbefore : before.outcome = .pending) (hafter : after.outcome = .none) :
    decisionEffects before after participant s =
      (s.raiseIf (after.role == some .dissent) .dissent).raiseIf participant .noConcord := by
  simp [decisionEffects, hbefore, hafter]

end Effects

/-! ### The row -/

/-- A unit that holds a NEXT and its record decides on the pass that it has read. -/
theorem decidePass_of_held {d : Draft} {r after : ConcordRecord} {p : PassReading} {s : State} (hd : s.next = some d)
    (hr : s.nextRec = some r)
    (hafter : r.onPass s.straps.roll p d.participant (decide (d.digest = p.result)) = after) :
    decidePass p s = decisionEffects r after d.participant { s with nextRec := some after } := by
  simp only [decidePass, hr, hd, hafter]

/-- The reading of a pass that stands in the window's cells. -/
def State.passReading (pass : Nat) (v : Word32) (s : State) : PassReading := ⟨pass, v, s.win.assents⟩

theorem passDecision_of_after {pass : Nat} {v : Word32} {s : State} (h : s.afterSample 60)
    (hpass : s.windowPass = some pass) (hresult : s.win.passResult = some v) :
    passDecision s = decidePass (s.passReading pass v) s := by
  obtain ⟨-, hphase, halignment, hsampled, hcell⟩ := h
  simp only [passDecision, hpass, hresult]
  exact if_pos ⟨Window.live_of hphase halignment, hcell, hsampled⟩

end Sys2Proof.Machine

open Sys2Proof Sys2Proof.Machine

/-- Settles O40: the row decides on the pass that was read (`passDecision_of_after`), with one equation of `onPass` and one of
`decisionEffects` for each of the four ends a pass can have. -/
theorem passDecision : Obligations.PassDecision := by
  intro pass v d r s h hpass hv hd hr hpending tally role decided
  have hdecides {after : ConcordRecord}
      (hafter : r.onPass s.straps.roll (s.passReading pass v) d.participant (decide (d.digest = v)) = after) :
      Machine.passDecision s = decisionEffects r after d.participant { s with nextRec := some after } :=
    (passDecision_of_after h hpass hv).trans (decidePass_of_held hd hr hafter)
  have hdecided (o : RecordOutcome) :
      r.decided o (s.passReading pass v) d.participant (decide (d.digest = v)) = decided o := by
    rw [ConcordRecord.decided, roleFor_eq]
    rfl
  refine ⟨_, next_whenRunning _ h.1, passDecision_frame s, fun hquorum => ?_, fun hshort hnone => ?_,
    fun hshort hblind hopen => ?_, fun hshort hsighted hassents hearly => ?_⟩
  · rw [hdecides (Eq.trans (ConcordRecord.onPass_of_quorum hpending hquorum) (hdecided _)),
      decisionEffects_of_concord hpending rfl]
    simp [decided]
  · rw [hdecides (Eq.trans (ConcordRecord.onPass_of_none hpending hshort hnone) (hdecided _)),
      decisionEffects_of_none hpending rfl]
    cases hparticipant : d.participant <;> simp [decided, role, hparticipant]
  · rw [hdecides (ConcordRecord.onPass_of_blind hpending hshort hblind hopen), decisionEffects_of_open hpending]
    exact ⟨rfl, rfl, rfl⟩
  · rw [hdecides (ConcordRecord.onPass_of_next hpending hshort hsighted hassents hearly),
      decisionEffects_of_open (by exact hpending)]
    simp [State.passReading]
end

section
/-! SUPPORT. A draft and its concord record (R89, R94, R99, R101): what keeps the two together, operation by operation on the
record. -/

namespace Sys2Proof.Machine

/-! ### A record as R89 says -/

theorem ConcordRecord.fresh_ok (roll : Nat) (d : Draft) : (ConcordRecord.fresh d).ok roll := by
  simp [ConcordRecord.ok, ConcordRecord.fresh]

/-- The outcome, the digest and the tally are all that the condition reads. -/
theorem ConcordRecord.ok.of_same {roll : Nat} {r q : ConcordRecord} (h : r.ok roll) (houtcome : q.outcome = r.outcome)
    (hdigest : q.digest = r.digest) (htally : q.tally = r.tally) : q.ok roll := by
  unfold ConcordRecord.ok
  rwa [houtcome, hdigest, htally]

theorem ConcordRecord.decided_concord_ok {roll : Nat} {p : PassReading} (h : quorum roll ≤ p.tally) (r : ConcordRecord)
    (participant equal : Bool) : (r.decided .concord p participant equal).ok roll :=
  ⟨iff_of_true rfl rfl, fun _ => h⟩

theorem ConcordRecord.decided_none_ok (roll : Nat) (r : ConcordRecord) (p : PassReading) (participant equal : Bool) :
    (r.decided .none p participant equal).ok roll :=
  ⟨iff_of_false nofun nofun, nofun⟩

/-- At cell 60 a record reaches CONCORD with a quorum, reaches NONE, or changes at most standing and next pass (R94, R99). -/
theorem ConcordRecord.onPass_cases (roll : Nat) (r : ConcordRecord) (p : PassReading) (participant equal : Bool) :
    (quorum roll ≤ p.tally ∧ r.onPass roll p participant equal = r.decided .concord p participant equal)
      ∨ r.onPass roll p participant equal = r.decided .none p participant equal
      ∨ ∃ st np, r.onPass roll p participant equal = { r with standing := st, nextPass := np } := by
  by_cases hsettled : r.outcome ≠ .pending
  · exact .inr (.inr ⟨_, _, onPass_of_settled hsettled⟩)
  have hpending : r.outcome = .pending := Decidable.not_not.mp hsettled
  by_cases hquorum : quorum roll ≤ p.tally
  · exact .inl ⟨hquorum, onPass_of_quorum hpending hquorum⟩
  have hshort : p.tally < quorum roll := Nat.not_le.mp hquorum
  by_cases hblind : r.standing = some .blind
  · by_cases hopen : p.tally = 0 ∨ p.pass ≠ 3
    · exact .inr (.inr ⟨_, _, onPass_of_blind hpending hshort hblind hopen⟩)
    · exact .inr (.inl (onPass_of_none hpending hshort (.inr ⟨hblind, by omega, by omega⟩)))
  · by_cases hlast : p.tally = 0 ∨ p.pass = 3
    · exact .inr (.inl (onPass_of_none hpending hshort (.inl ⟨hblind, hlast⟩)))
    · obtain ⟨hassents, hearly⟩ := not_or.mp hlast
      exact .inr (.inr ⟨_, _, onPass_of_next hpending hshort hblind hassents hearly⟩)

/-! ### Changes of a record that its draft does not see -/

/-- A change of a record that leaves its minute and keeps it as R89 says. -/
structure KeepsRecord (roll : Nat) (f : ConcordRecord → ConcordRecord) : Prop where
  minute : ∀ r, (f r).minute = r.minute
  ok : ∀ r, r.ok roll → (f r).ok roll

theorem onPass_keepsRecord (roll : Nat) (p : PassReading) (participant equal : Bool) :
    KeepsRecord roll fun r => r.onPass roll p participant equal := by
  constructor <;> intro r
  · obtain ⟨-, heq⟩ | heq | ⟨_, _, heq⟩ := r.onPass_cases roll p participant equal <;> rw [heq] <;> rfl
  · obtain ⟨hquorum, heq⟩ | heq | ⟨_, _, heq⟩ := r.onPass_cases roll p participant equal <;> rw [heq]
    · exact fun _ => r.decided_concord_ok hquorum participant equal
    · exact fun _ => r.decided_none_ok roll p participant equal
    · exact fun h => h.of_same rfl rfl rfl

theorem handedOver_keepsRecord (roll : Nat) : KeepsRecord roll ConcordRecord.handedOver := by
  constructor <;> intro r <;> by_cases hpending : r.outcome = .pending
  · rw [ConcordRecord.handedOver_of_pending hpending]
  · rw [ConcordRecord.handedOver_of_decided hpending]
  · rw [ConcordRecord.handedOver_of_pending hpending]
    exact fun _ => ⟨iff_of_false nofun nofun, nofun⟩
  · rw [ConcordRecord.handedOver_of_decided hpending]
    exact fun h => h.of_same rfl rfl rfl

/-! ### The pair (R89, R101, R102) -/

/-- A draft and a record are held together: both or neither, of one minute, and the record is as R89 says. -/
structure HeldTogether (roll : Nat) (d : Option Draft) (r : Option ConcordRecord) : Prop where
  minute : d.map Draft.minute = r.map ConcordRecord.minute
  ok : ∀ x, r = some x → x.ok roll

theorem heldTogether_none (roll : Nat) : HeldTogether roll none none := ⟨rfl, nofun⟩

theorem heldTogether_fresh (roll : Nat) (d : Draft) : HeldTogether roll (some d) (some (.fresh d)) :=
  ⟨rfl, fun _ hx => Option.some.inj hx ▸ ConcordRecord.fresh_ok roll d⟩

/-- Without a record there is no roll to hold it against. -/
theorem HeldTogether.of_no_record {roll roll' : Nat} {d : Option Draft} (h : HeldTogether roll d none) :
    HeldTogether roll' d none :=
  ⟨h.minute, nofun⟩

theorem HeldTogether.map {roll : Nat} {d : Option Draft} {r : Option ConcordRecord} {f : ConcordRecord → ConcordRecord}
    (h : HeldTogether roll d r) (hf : KeepsRecord roll f) : HeldTogether roll d (r.map f) := by
  obtain ⟨hminute, hok⟩ := h
  cases r with
  | none => exact ⟨hminute, nofun⟩
  | some x =>
    refine ⟨hminute.trans (congrArg some (hf.minute x).symm), fun y hy => ?_⟩
    obtain rfl : f x = y := Option.some.inj hy
    exact hf.ok x (hok x rfl)

end Sys2Proof.Machine
end

section
/-! SUPPORT. The drafts and the records of the unit (R89, R90, R101, R102), operation by operation: few operations write any of
them, or the straps and the supply that the condition on them reads. -/

namespace Sys2Proof.Machine

/-- The parts of the state that the condition on drafts and records reads. -/
def State.contestParts (s : State) :
    Straps × Power × Option Draft × Option ConcordRecord × Option Draft × Option ConcordRecord :=
  (s.straps, s.pwr, s.next, s.nextRec, s.current, s.curRec)

/-- NEXT and CURRENT are each held together with its record, and in the start interval, with no roll sampled yet, no record is
held (R90). -/
structure State.contestKept (s : State) : Prop where
  next : HeldTogether s.straps.roll s.next s.nextRec
  current : HeldTogether s.straps.roll s.current s.curRec
  unsampled : s.pwr.starting = true → s.nextRec = none ∧ s.curRec = none

theorem State.contestKept_iff (s : State) : s.contestKept ↔ s.recordsOk ∧ s.pairsOk := by
  constructor
  · intro ⟨⟨hnextMinute, hnextOk⟩, ⟨hcurMinute, hcurOk⟩, hunsampled⟩
    exact ⟨⟨hnextOk, hcurOk, hunsampled⟩, hnextMinute, hcurMinute⟩
  · intro ⟨⟨hnextOk, hcurOk, hunsampled⟩, hnextMinute, hcurMinute⟩
    exact ⟨⟨hnextMinute, hnextOk⟩, ⟨hcurMinute, hcurOk⟩, hunsampled⟩

theorem State.starting_of_running {s : State} (h : s.running = true) : s.pwr.starting = false := by
  simp only [State.running, Bool.and_eq_true, Bool.not_eq_true'] at h
  exact h.2

section Kept
variable {s t : State}

theorem State.contestKept.of_same (h : s.contestKept) (hparts : t.contestParts = s.contestParts) : t.contestKept := by
  simp only [State.contestParts, Prod.mk.injEq] at hparts
  obtain ⟨hstraps, hpwr, hnext, hnextRec, hcurrent, hcurRec⟩ := hparts
  obtain ⟨hkeptNext, hkeptCurrent, hunsampled⟩ := h
  constructor
  · rwa [hstraps, hnext, hnextRec]
  · rwa [hstraps, hcurrent, hcurRec]
  · rwa [hpwr, hnextRec, hcurRec]

theorem State.contestKept_of_none {x : Straps} {p : Power} (hparts : t.contestParts = (x, p, none, none, none, none)) :
    t.contestKept := by
  simp only [State.contestParts, Prod.mk.injEq] at hparts
  obtain ⟨-, -, hnext, hnextRec, hcurrent, hcurRec⟩ := hparts
  constructor
  · rw [hnext, hnextRec]
    exact heldTogether_none _
  · rw [hcurrent, hcurRec]
    exact heldTogether_none _
  · exact fun _ => ⟨hnextRec, hcurRec⟩

theorem State.contestKept.map_nextRec {f : ConcordRecord → ConcordRecord} (h : s.contestKept)
    (hf : KeepsRecord s.straps.roll f) : State.contestKept { s with nextRec := s.nextRec.map f } := by
  obtain ⟨hnext, hcurrent, hunsampled⟩ := h
  refine ⟨hnext.map hf, hcurrent, fun hstarting => ?_⟩
  obtain ⟨hnextRec, hcurRec⟩ := hunsampled hstarting
  exact ⟨Option.map_eq_none_iff.mpr hnextRec, hcurRec⟩

/-! ### Supply, reset and the start interval (R90, R165 to R167) -/

theorem powerOnValues_contestKept (p : Power) (s : State) : (s.powerOnValues p).contestKept :=
  State.contestKept_of_none rfl

theorem rstnRelease_contestKept (h : s.contestKept) : (rstnRelease s).contestKept := by
  unfold rstnRelease
  split
  · exact powerOnValues_contestKept _ s
  · exact h

/-- The roll is sampled while no record is held. -/
theorem startIntervalEnd_contestKept (i : Instant) (pins : StrapPins) (h : s.contestKept) :
    (startIntervalEnd i pins s).contestKept := by
  unfold startIntervalEnd
  split
  next hstarting =>
    obtain ⟨hnext, hcurrent, hunsampled⟩ := h
    obtain ⟨hnextRec, hcurRec⟩ := hunsampled hstarting.2.2
    rw [hnextRec] at hnext
    rw [hcurRec] at hcurrent
    refine ⟨?_, ?_, nofun⟩
    · dsimp only
      rw [hnextRec]
      exact hnext.of_no_record
    · dsimp only
      rw [hcurRec]
      exact hcurrent.of_no_record
  next => exact h

/-! ### The freeze, the passes and the boundary (R89, R94, R99, R101) -/

/-- NEXT comes into being with its record, in a unit that has sampled its roll. -/
theorem holdNext_contestKept (d : Draft) (h : s.contestKept) (hrun : s.running = true) : (holdNext d s).contestKept := by
  refine ⟨heldTogether_fresh _ d, h.current, fun hstarting => ?_⟩
  rw [holdNext_frame] at hstarting
  exact absurd hstarting (by simp [State.starting_of_running hrun])

theorem missPass_contestKept (h : s.contestKept) : (missPass s).contestKept := by
  rw [missPass_frame, missPass_nextRec]
  refine h.map_nextRec ⟨fun r => ?_, fun r hr => ?_⟩
  · split <;> rfl
  · split
    · exact hr.of_same rfl rfl rfl
    · exact hr

theorem handOver_contestKept (h : s.contestKept) : (handOver s).contestKept := by
  obtain ⟨hnext, -, hunsampled⟩ := h
  refine ⟨heldTogether_none _, hnext.map (handedOver_keepsRecord _), fun hstarting => ⟨rfl, ?_⟩⟩
  exact Option.map_eq_none_iff.mpr (hunsampled hstarting).1

theorem decidePass_contestKept (p : PassReading) (h : s.contestKept) : (decidePass p s).contestKept := by
  unfold decidePass
  split
  next r d hr hd =>
    refine State.contestKept.of_same (h.map_nextRec (onPass_keepsRecord _ p d.participant (decide (d.digest = p.result)))) ?_
    rw [decisionEffects_frame, hr]
    rfl
  next => exact h

theorem passDecision_contestKept (h : s.contestKept) : (passDecision s).contestKept := by
  unfold passDecision
  dsimp only
  split
  · split
    · exact decidePass_contestKept _ h
    · exact h
  · exact h

/-! ### The window's end, the own edge and the realign -/

/-- Of drafts and records the end of a window misses at most a pass. -/
theorem endWindow_contestParts (s : State) :
    (endWindow s).contestParts = if s.win.phase = .over then s.contestParts else (missPass s).contestParts := by
  rw [endWindow_frame, endWindow_nextRec, missPass_frame]
  split <;> rfl

theorem endWindow_contestKept (h : s.contestKept) : (endWindow s).contestKept := by
  have hparts := endWindow_contestParts s
  split at hparts
  · exact h.of_same hparts
  · exact (missPass_contestKept h).of_same hparts

theorem deadWindow_contestKept (h : s.contestKept) : (deadWindow s).contestKept := by
  unfold deadWindow
  split
  next hopened =>
    rw [closeDead_eq_endWindow hopened.1]
    exact (endWindow_contestKept h).of_same rfl
  next => exact h

/-- An own edge hands over at a boundary, makes NEXT or leaves it at a freeze, and only ends the window at any other. -/
theorem ownEdge_contestParts (s : State) :
    (ownEdge s).contestParts = (handOver s).contestParts
      ∨ (∃ d, (ownEdge s).contestParts = (holdNext d s).contestParts)
      ∨ (ownEdge s).contestParts = s.contestParts
      ∨ (ownEdge s).contestParts = (endWindow s).contestParts := by
  obtain ⟨-, hpwr, hstraps, -, -, -⟩ := ownEdge_static s
  cases hboundary : s.trk.boundaryNext with
  | true =>
    obtain ⟨hcurrent, hnext, hnextRec, hcurRec⟩ := ownEdge_drafts_of_boundary s hboundary
    left
    rw [State.contestParts, hstraps, hpwr, hnext, hnextRec, hcurrent, hcurRec]
    rfl
  | false =>
    cases hfreeze : s.trk.freezeNext with
    | true =>
      obtain ⟨hnext, hnextRec, hcurrent, hcurRec, -⟩ := ownEdge_eq_edgeFrozen s hfreeze
      obtain ⟨hkeptCurrent, hkeptRec, -⟩ := s.edgeFrozen_keeps
      rw [State.contestParts, hstraps, hpwr, hnext, hnextRec, hcurrent, hcurRec, hkeptCurrent, hkeptRec]
      right
      obtain hbeyond | hwithin := Nat.lt_or_ge lastMinute (s.trk.minute + 1)
      · obtain ⟨hleft, hleftRec⟩ := State.edgeFrozen_of_beyond hfreeze hbeyond
        rw [hleft, hleftRec]
        exact .inr (.inl rfl)
      · obtain ⟨_, _, hmade, hmadeRec, -⟩ := State.edgeFrozen_of_within hfreeze hwithin
        rw [hmade, hmadeRec]
        exact .inl ⟨_, rfl⟩
    | false =>
      obtain ⟨hnext, hcurrent, hcurRec, -, -, -, hnextRec⟩ := ownEdge_drafts_of_plain s hboundary hfreeze
      right; right; right
      rw [State.contestParts, hstraps, hpwr, hnext, hnextRec, hcurrent, hcurRec, endWindow_frame]
      rfl

theorem ownEdge_contestKept (h : s.contestKept) (hrun : s.running = true) : (ownEdge s).contestKept := by
  obtain hparts | ⟨d, hparts⟩ | hparts | hparts := ownEdge_contestParts s
  · exact (handOver_contestKept h).of_same hparts
  · exact (holdNext_contestKept d h hrun).of_same hparts
  · exact h.of_same hparts
  · exact (endWindow_contestKept h).of_same hparts

theorem State.afterRealign_contestKept (e : Instant) (u : UtcTime) (h : s.contestKept) :
    (s.afterRealign e u).contestKept := by
  have hkept (hcurrent : (s.afterRealign e u).current = s.current) (hcurRec : (s.afterRealign e u).curRec = s.curRec) :
      (s.afterRealign e u).contestKept := by
    refine h.of_same ?_
    rw [State.afterRealign_frame, hcurrent, hcurRec]
    rfl
  cases hcurrent : s.current with
  | none =>
    obtain ⟨hnone, hcurRec, -⟩ := s.afterRealign_of_none e u hcurrent
    exact hkept (hnone.trans hcurrent.symm) hcurRec
  | some d =>
    by_cases hm : d.minute = u.toCount.minute
    · obtain ⟨hsame, hcurRec, -⟩ := s.afterRealign_of_kept e u d hcurrent hm
      exact hkept (hsame.trans hcurrent.symm) hcurRec
    · obtain ⟨hnone, hnoneRec, -⟩ := s.afterRealign_of_discarded e u d hcurrent hm
      rw [State.afterRealign_frame, hnone, hnoneRec]
      exact ⟨h.next, heldTogether_none _, fun hstarting => ⟨(h.unsampled hstarting).1, rfl⟩⟩

/-- A CURRENT that a realign discards goes with its record (R66, R102). -/
theorem realign_contestKept (h : s.contestKept) : (realign s).contestKept := by
  by_cases hdue : s.trk.realignDue ∧ s.trk.armed ∧ s.trk.refState = .stepping
  · cases htarget : s.trk.realignTarget with
    | none => simpa [realign, hdue, htarget] using h
    | some target =>
      obtain ⟨e, u⟩ := target
      rw [realign_of_target s e u hdue.1 hdue.2.1 hdue.2.2 htarget]
      exact State.afterRealign_contestKept e u h
  · rwa [realign, if_neg hdue]

/-! ### The link (R102) -/

theorem restart_contestKept (i : Instant) (s : State) : (restart i s).contestKept :=
  State.contestKept_of_none (x := (s.releaseKeying i).straps) (p := (s.releaseKeying i).pwr) rfl

theorem responseEnd_contestKept (i : Instant) (h : s.contestKept) : (responseEnd i s).contestKept := by
  unfold responseEnd
  split
  · split
    · exact restart_contestKept i s
    · exact h.of_same rfl
  all_goals exact h

end Kept

/-! ### Every other command -/

/-- No request writes a draft, a record, the straps or the supply when it is taken; RESTART acts at its response's end. -/
theorem perform_contestParts (r : Request) (s : State) : (perform r s).state.contestParts = s.contestParts := by
  cases r <;> simp only [perform, readAnswer, answer]
  case descWrite b => rw [descWrite_frame]; rfl
  case descHand i => rw [descHand_frame]; rfl
  case descRecall i => rw [descRecall_frame]; rfl
  case descRead i => unfold descRead; split <;> rfl
  case laneStart l e g p => rw [laneStart_frame]; rfl
  case laneStop l => rw [laneStop_frame]; rfl
  case laneResume l => rw [laneResume_frame]; rfl
  case laneClear l => rw [laneClear_frame]; rfl
  case eventsClear m => unfold eventsClear; split <;> rfl
  case eventsEnable m => unfold eventsEnable; split <;> rfl
  case requestSet x y =>
    unfold requestSet
    split
    · dsimp only
      rw [redriveFlags_frame]
      rfl
    · rfl
  case keyYield => rw [keyYield_frame]; rfl
  case readmit => rw [readmit_frame]; rfl
  all_goals rfl

theorem cliFramingError_contestParts (s : State) : (cliFramingError s).contestParts = s.contestParts := by
  unfold cliFramingError
  split <;> rfl

theorem cliGapTimeout_contestParts (s : State) : (cliGapTimeout s).contestParts = s.contestParts := by
  unfold cliGapTimeout
  split <;> rfl

/-- The commands that may write a draft, a record, the straps or the supply. -/
def writesContest : Instr → Bool
  | .powerOn => true
  | .rstnAssert => true
  | .rstnRelease => true
  | .supplyLoss => true
  | .startIntervalEnd _ _ => true
  | .ownEdge => true
  | .realign => true
  | .deadWindow => true
  | .passDecision => true
  | .responseEnd _ => true
  | _ => false

theorem exec_contestParts (c : Instr) (hc : writesContest c = false) (s t : State) (hexec : exec c s = .next t) :
    t.contestParts = s.contestParts := by
  have hwhen {f : State → State} (hf : (f s).contestParts = s.contestParts) :
      (whenRunning f s).contestParts = s.contestParts :=
    whenRunning_keeps (fun u => u.contestParts = s.contestParts) f s rfl hf
  have hframe {f : State → State} {u : State} (heq : f s = u) (hu : u.contestParts = s.contestParts) :
      (whenRunning f s).contestParts = s.contestParts := hwhen (heq ▸ hu)
  have hrx (rx : Receiver) (u : State) (hu : u.contestParts = s.contestParts) :
      (u.setRx rx).contestParts = s.contestParts := hu
  have hperform (r : Request) (u : State) (hu : u.contestParts = s.contestParts) :
      (perform r u).state.contestParts = s.contestParts := (perform_contestParts r u).trans hu
  have hcharacter (b : Byte) : (whenRunning (cliCharacter b) s).contestParts = s.contestParts :=
    hwhen (cliCharacter_keeps _ hrx hperform b s rfl)
  cases c <;> obtain rfl := Host.Outcome.next.inj hexec
  case powerOn | rstnAssert | rstnRelease | supplyLoss | startIntervalEnd => cases hc
  case ownEdge | realign | deadWindow | passDecision | responseEnd => cases hc
  case refpEdge i => exact hframe (refpEdge_frame i s) rfl
  case referenceMessage b => exact hframe (refdCharacter_frame b s) rfl
  case refdCharacter b => exact hframe (refdCharacter_frame b s) rfl
  case refdFramingError => exact hframe (endMessage_frame none s) rfl
  case messageWindowExpiry => exact hframe (endMessage_frame none s) rfl
  case notionalReferenceSecond => exact hframe (notionalSecond_frame s) rfl
  case cliFrame bytes => exact hwhen (cliFrame_keeps _ hrx hperform bytes s rfl)
  case cliCharacter b => exact hcharacter b
  case cliLengthOverrun b => exact hcharacter b
  case cliFramingError => exact hwhen (cliFramingError_contestParts s)
  case cliGapTimeout => exact hwhen (cliGapTimeout_contestParts s)
  case tickStart => exact hframe (tickStart_frame s) rfl
  case strobeEnd => exact hframe (strobeEnd_frame s) rfl
  case kylReadback => exact hframe (kylReadback_frame s) rfl
  case ownWindowStart => exact hframe (openWindow_frame s) rfl
  case lateSync => exact hframe (lateSync_frame s) rfl
  case syncEdgeObserved i => exact hframe (observeSync_frame i s) rfl
  case cellDriveStart => exact hframe (cellStart_frame s) rfl
  case holdCellSample o => exact hframe (holdSample_frame o s) rfl
  case shadowSample o => exact hframe (shadowSample_frame o s) rfl
  case flagCellSample o => exact hframe (flagSample_frame o s) rfl
  case vacancy => exact hframe (vacancy_frame s) rfl
  case digestCellSample o => exact hframe (digestSample_frame o s) rfl
  case passResult => exact hframe (passResult_frame s) rfl
  case assentCellSample o => exact hframe (assentSample_frame o s) rfl
  case biddingSample o => exact hframe (biddingSample_frame o s) rfl
  case bidvalueCellSample o => exact hframe (bidvalueSample_frame o s) rfl
  case windowClose => exact hframe (windowClose_frame s) rfl
  case cusPulseEnd => exact hwhen rfl
  case syncDriveEnd => exact hwhen rfl
  case keyingBusChange i l => rw [busChange_frame]; rfl
  all_goals exact command_keeps _ hrx hperform _ s rfl

theorem exec_contestKept (c : Instr) (s t : State) (h : s.contestKept) (hexec : exec c s = .next t) :
    t.contestKept := by
  have hwhen {f : State → State} (hf : (f s).contestKept) : (whenRunning f s).contestKept := whenRunning_keeps _ f s h hf
  cases hc : writesContest c with
  | false => exact h.of_same (exec_contestParts c hc s t hexec)
  | true =>
    cases c <;> obtain rfl := Host.Outcome.next.inj hexec
    case powerOn | rstnAssert | supplyLoss => exact powerOnValues_contestKept _ s
    case rstnRelease => exact rstnRelease_contestKept h
    case startIntervalEnd i pins => exact startIntervalEnd_contestKept i pins h
    case ownEdge =>
      cases hrun : s.running with
      | true => exact hwhen (ownEdge_contestKept h hrun)
      | false => rwa [whenRunning_of_not_running _ s hrun]
    case realign => exact hwhen (realign_contestKept h)
    case deadWindow => exact hwhen (deadWindow_contestKept h)
    case passDecision => exact hwhen (passDecision_contestKept h)
    case responseEnd i => exact hwhen (responseEnd_contestKept i h)
    all_goals cases hc

end Sys2Proof.Machine

open Sys2Proof Sys2Proof.Machine

/-- Settles O58: ten commands may write a draft, a record or what the condition on them reads, and each keeps it
(`exec_contestKept`). -/
theorem concordRecordsAreKept : Obligations.ConcordRecordsAreKept := by
  intro s t hrecords hpairs hstep
  rw [← State.contestKept_iff]
  exact step_keeps State.contestKept (fun _ _ h => h.of_same rfl) exec_contestKept s t
    ((State.contestKept_iff s).mpr ⟨hrecords, hpairs⟩) hstep
end

section
/-! SUPPORT. The key items through an own edge (R110 to R115, R119 to R121): what the end of the window, the end of the second, the
minute boundary and the key state's own part make of them, in that order. -/

namespace Sys2Proof.Machine

/-! ### The end of the window (R112) -/

/-- The state with the yield resolved that an open window, cut by an own edge, was to resolve (R112). -/
def State.yieldEnded (s : State) : State := if s.win.phase = .opened then cancelUnreadYield s else s

theorem Window.yieldUnread_iff (w : Window) :
    w.yieldUnread = true ↔
      w.atStart = none ∨ (w.yieldResolved = false ∧ ∃ a, w.atStart = some a ∧ a.key = .yielding) := by
  cases h : w.atStart with
  | none => simp [Window.yieldUnread, h]
  | some a => simp [Window.yieldUnread, h, and_comm]

/-- The window of a last second is one that a boundary ends. -/
theorem State.boundaryNext_of_lastSecondWindow {s : State} (h : s.lastSecondWindow = true) : s.trk.boundaryNext = true := by
  simp only [State.lastSecondWindow, Bool.and_eq_true] at h
  have hvalid : s.trk.countValid = true := by
    have hlast := h.2
    simp only [Tracker.inLastSecond, Bool.and_eq_true] at hlast
    exact hlast.1
  simp [Tracker.boundaryNext, hvalid, h.2]

/-- A cut window cancels a yield only in the last second, and only one that it was to resolve and has not (R112, log 13). -/
theorem cancelUnreadYield_cases (s : State) :
    cancelUnreadYield s = s
      ∨ ((s.trk.boundaryNext = true ∧ s.key.state = .yielding ∧ s.win.yieldUnread = true)
        ∧ cancelUnreadYield s =
          ({ s with win := { s.win with yieldResolved := true }, key := { s.key with state := .holding } }).raise
            .yieldCancelled) := by
  unfold cancelUnreadYield
  split
  next => exact .inl rfl
  next hopen =>
    unfold resolveYield
    split
    next hyields =>
      obtain ⟨hlast, hbegan, hyielding⟩ := hyields
      have hunread : s.win.yieldResolved = false := Bool.eq_false_iff.mpr fun h => hopen (.inr (.inr h))
      refine .inr ⟨⟨State.boundaryNext_of_lastSecondWindow hlast, hyielding, ?_⟩, rfl⟩
      exact s.win.yieldUnread_iff.mpr (.inr ⟨hunread, Option.map_eq_some_iff.mp hbegan⟩)
    next => exact .inl rfl

theorem State.yieldEnded_cases (s : State) :
    s.yieldEnded = s
      ∨ ((s.trk.boundaryNext = true ∧ s.key.state = .yielding ∧ s.win.yieldUnread = true)
        ∧ s.yieldEnded =
          ({ s with win := { s.win with yieldResolved := true }, key := { s.key with state := .holding } }).raise
            .yieldCancelled) := by
  unfold State.yieldEnded
  split
  · exact cancelUnreadYield_cases s
  · exact .inl rfl

theorem cancelUnreadYield_missPass (s : State) :
    cancelUnreadYield (missPass s) = { cancelUnreadYield s with nextRec := (missPass s).nextRec } := by
  rw [missPass_frame]
  unfold cancelUnreadYield resolveYield
  simp only [State.lastSecondWindow, State.windowNumber]
  repeat' split
  all_goals rfl

/-- Of the key state, the events and the yield that the window keeps, the end of the window changes what a cancelled yield
changes. -/
theorem endWindow_yield (s : State) :
    (endWindow s).key.state = s.yieldEnded.key.state ∧ (endWindow s).ev = s.yieldEnded.ev
      ∧ (endWindow s).win.yieldUnread = s.yieldEnded.win.yieldUnread := by
  unfold endWindow State.yieldEnded
  split
  next hopened =>
    obtain ⟨hstate, hev⟩ := closeWith_deadRecord s (cancelUnreadYield (missPass s))
    rw [if_pos hopened, closeCut, closeDead]
    dsimp only
    rw [hstate, hev, cancelUnreadYield_missPass]
    refine ⟨rfl, rfl, ?_⟩
    rw [closeWith, State.raiseIf_win]
    rfl
  next hwaiting =>
    rw [hwaiting, missPass_frame]
    exact ⟨rfl, rfl, rfl⟩
  next hover =>
    rw [hover]
    exact ⟨rfl, rfl, rfl⟩

theorem endWindow_proof (s : State) : (endWindow s).key.proof = s.key.proof := by
  obtain ⟨hkept, hcut⟩ := endWindow_key s
  by_cases hopened : s.win.phase = .opened
  · rw [hcut hopened]
    obtain hkey | ⟨-, -, -, hkey⟩ := cancelUnreadYield_key s <;> rw [hkey]
  · rw [hkept hopened]

/-- The end of a window enters its keyers and no second. -/
theorem endWindow_entries (s : State) :
    (endWindow s).dec.openMinute.map OpenMinute.entries = s.dec.openMinute.map OpenMinute.entries := by
  unfold endWindow
  split
  · rw [closeCut, closeDead]
    dsimp only
    rw [closeWith_dec, cancelUnreadYield_frame, missPass_frame, addKeyers_eq]
    dsimp only
    split
    · rfl
    · cases s.dec.openMinute <;> rfl
  · rw [missPass_frame]
  · rfl

/-! ### The end of a looped second (R119, R133) -/

theorem cueStep_key (entry : SecondEntry) (s : State) : (cueStep entry s).key = s.key := by
  rw [cueStep_frame]

/-- A second of the proof minute is missed unless it was observed whole and showed what its draft expects. -/
theorem secondEnds_missed (read : Bool) (e : Instant) {s : State} {m : OpenMinute} (hrunning : s.key.proof.running = true)
    (hm : s.dec.openMinute = some m) (hlength : m.entries.length = s.trk.second) :
    (secondEnds read e s).key.proof.missed = false ↔
      s.key.proof.missed = false ∧ s.trk.lastEdge + 980000 ≤ e
        ∧ ∃ d, s.current = some d
          ∧ observeSpan s.trk.second s.trk.lastEdge s.dec.loopBase s.dec.loopTrace =
              expectedObservation d s.trk.second := by
  have hreport (b : Bool) (t : State) (ht : t.key = s.key) :
      (proofReport b t).key.proof.missed = false ↔ s.key.proof.missed = false ∧ b = true := by
    cases b <;> simp [proofReport, ht]
  have hwhole : s.trk.lastEdge + ms 980 ≤ e ↔ s.trk.lastEdge + 980000 ≤ e := Iff.rfl
  simp only [secondEnds, hm, hrunning, if_true, cueStep_key]
  refine (hreport _ _ rfl).trans (and_congr_right fun _ => ?_)
  simp only [endedEntry, hlength, if_true, secondEntry, observedSecond, decide_eq_true_eq, hwhole]
  by_cases hspan : s.trk.lastEdge + 980000 ≤ e
  · cases hcurrent : s.current with
    | none => simp [hspan]
    | some d => simp [hspan, observationMatches]
  · simp [hspan, unobservedEntry]

theorem secondEnds_keyState (read : Bool) (e : Instant) (s : State) :
    (secondEnds read e s).key.state = s.key.state := by
  obtain ⟨m, b, hkey, -⟩ := secondEnds_key read e s
  rw [hkey]

/-! ### The minute boundary (R114, R119 to R121) -/

/-- The key items after a proof that runs is judged by the CURRENT record (R120). -/
def KeyCtl.judged (record : Option ConcordRecord) (k : KeyCtl) : KeyCtl :=
  if k.proof.running = true ∧ k.state = .proving then
    { k with state := if proofGood k.proof record then .standby else .fenced, proof := Proof.reset }
  else k

/-- The key items after the bid bar is cleared and the minute is counted as listened to or not (R114, R121). -/
def KeyCtl.listened (ref : RefState) (k : KeyCtl) : KeyCtl :=
  let n := if k.listenOpen then min 2 (k.listening + 1) else k.listening
  { k with
    bidBar := false
    listening := n
    listenOpen := true
    state := if k.state = .dormant ∧ n = 2 ∧ ref = .locked then .standby else k.state }

/-- The key items after a proof minute that is designated begins (R119). -/
def KeyCtl.proofBegun (k : KeyCtl) : KeyCtl :=
  if k.proof.minute.isSome then { k with proof := { k.proof with running := true } } else k

theorem KeyCtl.listened_state (ref : RefState) (k : KeyCtl) :
    (k.listened ref).state =
      if k.state = .dormant ∧ (k.listened ref).listening = 2 ∧ ref = .locked then .standby else k.state := rfl

theorem KeyCtl.listened_proof (ref : RefState) (k : KeyCtl) : (k.listened ref).proof = k.proof := rfl

theorem proofJudge_key (s : State) : (proofJudge s).key = s.key.judged s.curRec := by
  unfold proofJudge KeyCtl.judged
  split
  · cases proofGood s.key.proof s.curRec <;> rfl
  · rfl

theorem listenBoundary_key (s : State) : (listenBoundary s).key = s.key.listened s.trk.refState := rfl

theorem proofBegin_key (s : State) : (proofBegin s).key = s.key.proofBegun := by
  unfold proofBegin KeyCtl.proofBegun
  split <;> rfl

/-- What the boundary's other parts leave to the proof: the state that it is judged in has the key items, the record, the tracker
and the latches of the state before. -/
theorem minuteBoundary_eq (m : Nat) (s : State) :
    ∃ u : State, minuteBoundary m s = proofBegin (handOver (listenBoundary (zoneDue m (proofJudge u))))
      ∧ u.key = s.key ∧ u.curRec = s.curRec ∧ u.trk = s.trk := by
  refine ⟨takeCredit (closeAirMinute m s).2 s.current (countdowns (closeAirMinute m s).1), rfl, ?_⟩
  rw [takeCredit_frame, countdowns_frame, closeAirMinute_frame]
  exact ⟨rfl, rfl, rfl⟩

theorem minuteBoundary_key (m : Nat) (s : State) :
    (minuteBoundary m s).key = ((s.key.judged s.curRec).listened s.trk.refState).proofBegun := by
  obtain ⟨u, hu, hkey, hrecord, htrk⟩ := minuteBoundary_eq m s
  have hdue : (zoneDue m (proofJudge u)).key = s.key.judged s.curRec := by
    rw [zoneDue_frame, ← hkey, ← hrecord]
    exact proofJudge_key u
  have href : (zoneDue m (proofJudge u)).trk = s.trk := by
    rw [zoneDue_frame, proofJudge_frame]
    exact htrk
  rw [hu, proofBegin_key, handOver_frame]
  dsimp only
  rw [listenBoundary_key, hdue, href]

theorem minuteBoundary_raises {f : Event} (m : Nat) (s : State) (hstarved : f ≠ .laneStarved) (hfault : f ≠ .laneFault)
    (hdone : f ≠ .announceDone) (hair : f ≠ .airIncomplete) (hzone : f ≠ .zoneApplied) (hproven : f ≠ .proven)
    (hfailed : f ≠ .provingFailed) : (minuteBoundary m s).latched f = s.latched f := by
  unfold minuteBoundary
  dsimp only
  rw [proofBegin_frame, handOver_frame, listenBoundary_frame]
  refine (zoneDue_raises m _ hzone).trans ((proofJudge_raises _ hproven hfailed).trans
    ((takeCredit_raises _ _ _ hstarved hfault hdone).trans ?_))
  rw [countdowns_frame]
  exact closeAirMinute_raises m s hair

/-- A proof that is judged raises PROVEN or PROVING_FAILED at its boundary (R120). -/
theorem minuteBoundary_latched_of_proof (m : Nat) {s : State} (hrunning : s.key.proof.running = true)
    (hproving : s.key.state = .proving) :
    (minuteBoundary m s).latched (if proofGood s.key.proof s.curRec then .proven else .provingFailed) = true := by
  obtain ⟨u, hu, hkey, hrecord, -⟩ := minuteBoundary_eq m s
  rw [hu, proofBegin_frame, handOver_frame, listenBoundary_frame]
  refine zoneDue_latched _ m _ ?_
  rw [← hkey] at hrunning hproving
  rw [← hkey, ← hrecord]
  simp only [proofJudge, hrunning, hproving, and_self, if_true]
  cases proofGood u.key.proof u.curRec <;> exact State.raise_latches _ _

/-! ### The key state's own part of an edge -/

section KeyEdge
variable {boundary : Bool} {s : State}

theorem keyEdge_of_fence (hfence : s.key.pendingFence = true) :
    keyEdge boundary s =
      { s with
        key :=
          { s.key with
            state := .fenced, drivers := false, pendingFence := false, pendingRelease := false, heldEdges := 0 } }.raise
        .fenced := if_pos hfence

theorem keyEdge_of_take (hfence : s.key.pendingFence = false) (htake : s.key.pendingTake ≠ none) :
    keyEdge boundary s =
      { s with key := { s.key with state := .holding, drivers := true, pendingTake := none, heldEdges := 1 } }.raise
        .keyTaken := by
  rw [keyEdge, if_neg (by rw [hfence]; decide), if_pos (Option.isSome_iff_ne_none.mpr htake)]

section Neither
variable (hfence : s.key.pendingFence = false) (htake : s.key.pendingTake = none)
include hfence htake

theorem keyEdge_of_release (hyielding : s.key.state = .yielding) (hrelease : s.key.pendingRelease = true) :
    keyEdge true s =
      { s with
        key := { s.key with state := .standby, drivers := false, pendingRelease := false, heldEdges := 0 } }.raise
        .keyReleased := by
  simp [keyEdge, hfence, htake, hyielding, hrelease]

theorem keyEdge_of_unread (hyielding : s.key.state = .yielding) (hrelease : s.key.pendingRelease = false)
    (hunread : s.win.yieldUnread = true) :
    keyEdge true s =
      { s with key := { s.key with state := .holding, heldEdges := min 2 (s.key.heldEdges + 1) } }.raise
        .yieldCancelled := by
  simp [keyEdge, hfence, htake, hyielding, hrelease, hunread]

/-- Away from a boundary, and for a yield that is to be resolved in the next minute, an edge counts itself for a holder. -/
theorem keyEdge_of_other
    (hother : boundary = true → s.key.state = .yielding → s.key.pendingRelease = false ∧ s.win.yieldUnread = false) :
    keyEdge boundary s =
      { s with
        key :=
          { s.key with
            heldEdges :=
              if s.key.state = .holding ∨ s.key.state = .yielding then min 2 (s.key.heldEdges + 1) else 0 } } := by
  have hrelease : ¬(boundary = true ∧ s.key.state = .yielding ∧ s.key.pendingRelease = true) :=
    fun ⟨hb, hy, hr⟩ => by simp [(hother hb hy).1] at hr
  have hunread : ¬(boundary = true ∧ s.key.state = .yielding ∧ s.win.yieldUnread = true) :=
    fun ⟨hb, hy, hu⟩ => by simp [(hother hb hy).2] at hu
  simp only [keyEdge, hfence, htake, Option.isSome_none, Bool.false_eq_true, if_false, if_neg hrelease, if_neg hunread,
    KeyState.isHolder_iff]

end Neither
end KeyEdge

/-! ### The whole own edge -/

/-- The state at an own edge when the minute boundary, if it is one, has been dealt with. -/
def State.edgeTurned (s : State) : State :=
  if s.trk.boundaryNext then minuteBoundary s.trk.atEdge.minute s.edgeCounted else s.edgeCounted

/-- The state at an own edge when the key state is settled, at a boundary or not. -/
def State.edgeSettled (s : State) : State := keyEdge s.trk.boundaryNext s.edgeTurned

theorem freezeEdge_key (before : KeyState) (read : Bool) (s : State) :
    ∃ m, (freezeEdge before read s).key = { s.key with proof := { s.key.proof with minute := m } } := by
  have hfreeze (key : KeyState) (u : State) :
      ∃ m, (freeze key read u).key = { u.key with proof := { u.key.proof with minute := m } } := by
    obtain hbeyond | hwithin := Nat.lt_or_ge lastMinute (u.trk.minute + 1)
    · rw [freeze_beyond key read u hbeyond]
      exact ⟨_, rfl⟩
    · obtain ⟨_, _, _, _, -, hfrozen, -⟩ := freeze_makes key read u hwithin
      rw [hfrozen]
      dsimp only
      split
      · exact ⟨_, rfl⟩
      · exact ⟨_, rfl⟩
  exact hfreeze _ (clearAssentPasses s)

/-- After the key state is settled an own edge begins the second, but that a freeze makes NEXT first. -/
theorem ownEdge_eq_settled (s : State) :
    ∃ u : State, ownEdge s = proofReferenceCheck (beginSecond u)
      ∧ (∃ m, u.key = { s.edgeSettled.key with proof := { s.edgeSettled.key.proof with minute := m } })
      ∧ (∀ e, s.edgeSettled.latched e = true → u.latched e = true)
      ∧ (s.trk.boundaryNext = true → u = s.edgeSettled) := by
  cases hboundary : s.trk.boundaryNext with
  | true =>
    have hsettled : s.edgeSettled = keyEdge true (minuteBoundary s.trk.atEdge.minute s.edgeCounted) := by
      rw [State.edgeSettled, State.edgeTurned, hboundary, if_pos rfl]
    exact ⟨s.edgeSettled, (ownEdge_of_boundary s hboundary).trans (by rw [hsettled]), ⟨_, rfl⟩, fun _ h => h,
      fun _ => rfl⟩
  | false =>
    have hsettled : s.edgeSettled = keyEdge false s.edgeCounted := by
      rw [State.edgeSettled, State.edgeTurned, hboundary, if_neg nofun]
    rw [hsettled]
    cases hfreeze : s.trk.freezeNext with
    | true => exact ⟨_, ownEdge_of_freeze s hfreeze, freezeEdge_key _ _ _, fun e => freezeEdge_latched e _ _ _, nofun⟩
    | false => exact ⟨_, ownEdge_of_plain s hboundary hfreeze, ⟨_, rfl⟩, fun _ h => h, nofun⟩

/-- The key items after an own edge: those that the key state's own part leaves, but for the proof, whose minute a freeze may name
and whose reference the edge reads (R118, R119). -/
theorem ownEdge_key (s : State) :
    ∃ p : Proof, (ownEdge s).key = { s.edgeSettled.key with proof := p }
      ∧ p.running = s.edgeSettled.key.proof.running
      ∧ p.refHeld = (s.edgeSettled.key.referenceRead s.trk.atEdge.refState).proof.refHeld
      ∧ (s.trk.boundaryNext = true → p.minute = s.edgeSettled.key.proof.minute) := by
  obtain ⟨u, hedge, ⟨m, hkey⟩, -, hsame⟩ := ownEdge_eq_settled s
  have htrk : u.trk = s.trk.atEdge := by
    rw [← ownEdge_trk s, hedge, proofReferenceCheck_frame]
    rfl
  have hread : (ownEdge s).key = u.key.referenceRead s.trk.atEdge.refState := by
    rw [hedge, proofReferenceCheck_eq, ← htrk]
    rfl
  rw [hread]
  refine ⟨(u.key.referenceRead s.trk.atEdge.refState).proof, ?_, ?_, ?_, fun hboundary => ?_⟩
  · rw [hkey]
    unfold KeyCtl.referenceRead
    split <;> rfl
  · rw [hkey]
    unfold KeyCtl.referenceRead
    split <;> rfl
  · rw [hkey]
    unfold KeyCtl.referenceRead
    dsimp only
    split <;> rfl
  · rw [hsame hboundary]
    unfold KeyCtl.referenceRead
    split <;> rfl

theorem ownEdge_latched_of_settled (s : State) (e : Event) (h : s.edgeSettled.latched e = true) :
    (ownEdge s).latched e = true := by
  obtain ⟨u, hedge, -, hlatched, -⟩ := ownEdge_eq_settled s
  rw [hedge, proofReferenceCheck_eq]
  exact hlatched e h

theorem ownEdge_ev_of_boundary (s : State) (h : s.trk.boundaryNext = true) : (ownEdge s).ev = s.edgeSettled.ev := by
  obtain ⟨u, hedge, -, -, hsame⟩ := ownEdge_eq_settled s
  rw [hedge, proofReferenceCheck_eq, ← hsame h]
  rfl

end Sys2Proof.Machine
end

section
/-! SUPPORT. The drivers and the holder (R104): which operations leave the drivers as they are and a holder a holder. -/

namespace Sys2Proof.Machine

/-- From `k` to `k'` the drivers stay as they are, and a holder stays one. -/
structure KeyCtl.KeepsDrive (k k' : KeyCtl) : Prop where
  drivers : k'.drivers = k.drivers
  holder : k.state.isHolder = true → k'.state.isHolder = true

theorem KeyCtl.KeepsDrive.refl (k : KeyCtl) : k.KeepsDrive k := ⟨rfl, id⟩

theorem KeyCtl.KeepsDrive.trans {k l m : KeyCtl} (h : k.KeepsDrive l) (h' : l.KeepsDrive m) : k.KeepsDrive m :=
  ⟨h'.drivers.trans h.drivers, fun hholder => h'.holder (h.holder hholder)⟩

/-- The drivers are enabled only in HOLDING or YIELDING (R104). -/
def KeyCtl.drivesAsHolder (k : KeyCtl) : Prop := k.drivers = true → k.state.isHolder = true

theorem KeyCtl.drivesAsHolder.of_keepsDrive {k k' : KeyCtl} (h : k.drivesAsHolder) (hkept : k.KeepsDrive k') :
    k'.drivesAsHolder :=
  fun hdrives => hkept.holder (h (hkept.drivers.symm.trans hdrives))

/-! ### The key items alone -/

theorem KeyCtl.yield_keepsDrive (k : KeyCtl) : k.KeepsDrive k.yield := by
  rw [KeyCtl.yield_eq]
  refine ⟨rfl, fun hholder => ?_⟩
  dsimp only
  split
  · rfl
  · exact hholder

theorem KeyCtl.referenceRead_keepsDrive (ref : RefState) (k : KeyCtl) : k.KeepsDrive (k.referenceRead ref) := by
  unfold KeyCtl.referenceRead
  split <;> exact ⟨rfl, id⟩

theorem keyAtClose_keepsDrive (r : WindowRecord) (splitAccused : Bool) (k : KeyCtl) :
    k.KeepsDrive (keyAtClose r splitAccused k) := by
  unfold keyAtClose
  dsimp only
  split
  · refine KeyCtl.KeepsDrive.trans ?_ (KeyCtl.yield_keepsDrive _)
    exact ⟨rfl, id⟩
  · exact ⟨rfl, id⟩

/-! ### The window -/

/-- A yield that is resolved in the window leaves the unit the holder (R112). -/
theorem resolveYield_keepsDrive (bidding : Bool) (s : State) : s.key.KeepsDrive (resolveYield bidding s).key := by
  unfold resolveYield
  split
  · dsimp only
    split
    · exact ⟨rfl, id⟩
    · exact ⟨rfl, fun _ => rfl⟩
  · exact .refl _

theorem cancelUnreadYield_keepsDrive (s : State) : s.key.KeepsDrive (cancelUnreadYield s).key := by
  unfold cancelUnreadYield
  split
  · exact .refl _
  · exact resolveYield_keepsDrive false s

theorem closeDead_keepsDrive (s : State) : s.key.KeepsDrive (closeDead s).key := by
  rw [closeDead, closeWith_key, ← (missPass_keeps s).2.2]
  exact (cancelUnreadYield_keepsDrive _).trans (keyAtClose_keepsDrive _ _ _)

theorem endWindow_keepsDrive (s : State) : s.key.KeepsDrive (endWindow s).key := by
  unfold endWindow
  split
  · exact closeDead_keepsDrive s
  · rw [(missPass_keeps s).2.2]
    exact .refl _
  · exact .refl _

theorem deadWindow_keepsDrive (s : State) : s.key.KeepsDrive (deadWindow s).key := by
  unfold deadWindow
  split
  · exact closeDead_keepsDrive s
  · exact .refl _

/-- A unit that an accusation fences was in STANDBY, and no holder (R116). -/
theorem takeShadow_keepsDrive (s : State) : s.key.KeepsDrive (takeShadow s).key := by
  unfold takeShadow
  dsimp only
  split
  · exact .refl _
  · split <;> exact ⟨rfl, id⟩
  · split
    next haccuses =>
      have hnot : s.key.state.isHolder ≠ true := by rw [haccuses.2]; decide
      split <;> exact ⟨rfl, fun hholder => absurd hholder hnot⟩
    next => exact .refl _

theorem shadowSample_keepsDrive (o : OthersDrive) (s : State) : s.key.KeepsDrive (shadowSample o s).key := by
  unfold shadowSample
  dsimp only
  split
  · refine KeyCtl.KeepsDrive.trans ?_ (takeShadow_keepsDrive _)
    exact .refl _
  · exact .refl _

theorem biddingSample_keepsDrive (o : OthersDrive) (s : State) : s.key.KeepsDrive (biddingSample o s).key := by
  unfold biddingSample
  dsimp only
  split
  · refine KeyCtl.KeepsDrive.trans ?_ (resolveYield_keepsDrive _ _)
    exact .refl _
  · exact .refl _

theorem bidvalueSample_keepsDrive (o : OthersDrive) (s : State) : s.key.KeepsDrive (bidvalueSample o s).key := by
  unfold bidvalueSample
  dsimp only
  split
  · split <;> exact ⟨rfl, id⟩
  · exact .refl _

theorem windowClose_keepsDrive (s : State) : s.key.KeepsDrive (windowClose s).key := by
  unfold windowClose
  dsimp only
  split
  · split
    · rw [closeWith_key]
      exact keyAtClose_keepsDrive _ _ _
    · exact .refl _
  · exact .refl _

theorem decisionEffects_keepsDrive (before after : ConcordRecord) (participant : Bool) (s : State) :
    s.key.KeepsDrive (decisionEffects before after participant s).key := by
  unfold decisionEffects
  split
  · simp only [State.raiseIf_key]
    split
    · exact s.key.yield_keepsDrive
    · exact .refl _
  · exact .refl _

theorem passDecision_keepsDrive (s : State) : s.key.KeepsDrive (passDecision s).key := by
  have hdecide (p : PassReading) : s.key.KeepsDrive (decidePass p s).key := by
    unfold decidePass
    split
    · refine KeyCtl.KeepsDrive.trans ?_ (decisionEffects_keepsDrive _ _ _ _)
      exact .refl _
    · exact .refl _
  unfold passDecision
  dsimp only
  split
  · split
    · exact hdecide _
    · exact .refl _
  · exact .refl _

/-! ### The reference port and the link -/

theorem endMessage_keepsDrive (msg : Option RefMessage) (s : State) : s.key.KeepsDrive (endMessage msg s).key := by
  unfold endMessage
  split
  · exact .refl _
  · rw [judge_key]
    exact KeyCtl.referenceRead_keepsDrive _ _

theorem refpEdge_keepsDrive (i : Instant) (s : State) : s.key.KeepsDrive (refpEdge i s).key := by
  unfold refpEdge
  rw [steerByRefp_frame]
  exact endMessage_keepsDrive none s

theorem refdCharacter_keepsDrive (b : Byte) (s : State) : s.key.KeepsDrive (refdCharacter b s).key := by
  unfold refdCharacter
  split
  · exact .refl _
  · dsimp only
    split
    · exact endMessage_keepsDrive _ s
    · exact .refl _

theorem notionalSecond_keepsDrive (s : State) : s.key.KeepsDrive (notionalSecond s).key := by
  unfold notionalSecond
  split
  · rw [judge_key]
    exact KeyCtl.referenceRead_keepsDrive _ _
  · exact .refl _

/-- Of the requests only KEY YIELD and READMIT write a key item: a unit that READMIT makes PROVING was FENCED. -/
theorem perform_keepsDrive (r : Request) (s : State) : s.key.KeepsDrive (perform r s).state.key := by
  cases r <;> simp only [perform, readAnswer, answer]
  case descWrite b => rw [descWrite_frame]; exact .refl _
  case descHand i => rw [descHand_frame]; exact .refl _
  case descRecall i => rw [descRecall_frame]; exact .refl _
  case descRead i => unfold descRead; split <;> exact .refl _
  case laneStart l e g p => rw [laneStart_frame]; exact .refl _
  case laneStop l => rw [laneStop_frame]; exact .refl _
  case laneResume l => rw [laneResume_frame]; exact .refl _
  case laneClear l => rw [laneClear_frame]; exact .refl _
  case eventsClear m => unfold eventsClear; split <;> exact .refl _
  case eventsEnable m => unfold eventsEnable; split <;> exact .refl _
  case requestSet x y =>
    unfold requestSet
    split
    · dsimp only
      rw [redriveFlags_frame]
      exact .refl _
    · exact .refl _
  case keyYield =>
    unfold keyYield
    split
    · exact s.key.yield_keepsDrive
    · exact .refl _
  case readmit =>
    unfold readmit
    split
    next hfenced => exact ⟨rfl, fun hholder => absurd hholder (by rw [hfenced]; decide)⟩
    next => exact .refl _
  all_goals exact .refl _

/-! ### The own edge -/

theorem secondEnds_keepsDrive (read : Bool) (e : Instant) (s : State) : s.key.KeepsDrive (secondEnds read e s).key := by
  obtain ⟨m, b, hkey, -⟩ := secondEnds_key read e s
  rw [hkey]
  exact ⟨rfl, id⟩

/-- A proof is judged of a PROVING unit, which is no holder (R120). -/
theorem KeyCtl.judged_keepsDrive (record : Option ConcordRecord) (k : KeyCtl) : k.KeepsDrive (k.judged record) := by
  unfold KeyCtl.judged
  split
  next hproving => exact ⟨rfl, fun hholder => absurd hholder (by rw [hproving.2]; decide)⟩
  next => exact .refl _

/-- A unit that a boundary brings to STANDBY by its listening was DORMANT (R121). -/
theorem KeyCtl.listened_keepsDrive (ref : RefState) (k : KeyCtl) : k.KeepsDrive (k.listened ref) := by
  refine ⟨rfl, fun hholder => ?_⟩
  have hawake : k.state ≠ .dormant := fun hdormant => by rw [hdormant] at hholder; cases hholder
  rwa [KeyCtl.listened_state, if_neg fun hbecomes => hawake hbecomes.1]

theorem KeyCtl.proofBegun_keepsDrive (k : KeyCtl) : k.KeepsDrive k.proofBegun := by
  unfold KeyCtl.proofBegun
  split <;> exact ⟨rfl, id⟩

theorem State.edgeTurned_keepsDrive (s : State) : s.key.KeepsDrive s.edgeTurned.key := by
  have hcounted : s.key.KeepsDrive s.edgeCounted.key := by
    rw [s.edgeCounted_key]
    exact (endWindow_keepsDrive s).trans (secondEnds_keepsDrive _ _ _)
  unfold State.edgeTurned
  split
  · rw [minuteBoundary_key]
    exact ((hcounted.trans (KeyCtl.judged_keepsDrive _ _)).trans (KeyCtl.listened_keepsDrive _ _)).trans
      (KeyCtl.proofBegun_keepsDrive _)
  · exact hcounted

/-- The key state's own part of an edge enables the drivers of a unit that takes the key, and disables those of a unit that it
fences or releases (R110, R112, R115). -/
theorem keyEdge_drivesAsHolder (boundary : Bool) {s : State} (h : s.key.drivesAsHolder) :
    (keyEdge boundary s).key.drivesAsHolder := by
  unfold keyEdge
  dsimp only
  split
  · exact nofun
  · split
    · exact fun _ => rfl
    · split
      · exact nofun
      · split
        · exact fun _ => rfl
        · exact h

theorem ownEdge_drivesAsHolder {s : State} (h : s.key.drivesAsHolder) : (ownEdge s).key.drivesAsHolder := by
  obtain ⟨p, hkey, -⟩ := ownEdge_key s
  rw [hkey]
  exact keyEdge_drivesAsHolder _ (h.of_keepsDrive s.edgeTurned_keepsDrive)

end Sys2Proof.Machine
end

section
/-! SUPPORT. The conditions under which the unit drives the keying bus (R104, R105, R125), operation by operation. -/

namespace Sys2Proof.Machine

/-- The parts of the state, beside the key items, that the condition on keying reads. -/
def State.keyingParts (s : State) : KeyingLines × KeyingOutput × Option Draft × Option ConcordRecord :=
  (s.keying.own, s.keying.out, s.current, s.curRec)

/-- From `s` to `t` the lines that the unit drives, its output, CURRENT and its record stay, and so do the drivers of a holder. -/
structure State.KeepsKeying (s t : State) : Prop where
  parts : t.keyingParts = s.keyingParts
  drive : s.key.KeepsDrive t.key

theorem State.KeepsKeying.trans {s t u : State} (h : s.KeepsKeying t) (h' : t.KeepsKeying u) : s.KeepsKeying u :=
  ⟨h'.parts.trans h.parts, h.drive.trans h'.drive⟩

/-- What touches neither the parts nor the key items. -/
theorem State.KeepsKeying.of_same {s t : State} (hparts : t.keyingParts = s.keyingParts) (hkey : t.key = s.key) :
    s.KeepsKeying t :=
  ⟨hparts, hkey ▸ .refl _⟩

section Kept
variable {s t : State}

theorem State.keyingConditions_of_same (hcurrent : t.current = s.current) (hcurRec : t.curRec = s.curRec) :
    t.keyingConditions = s.keyingConditions := by
  unfold State.keyingConditions
  rw [hcurrent, hcurRec]

theorem State.keyingOk.of_keepsKeying (h : s.keyingOk) (hkept : s.KeepsKeying t) : t.keyingOk := by
  obtain ⟨hlines, hbus, hdrives⟩ := h
  obtain ⟨hparts, hdrive⟩ := hkept
  simp only [State.keyingParts, Prod.mk.injEq] at hparts
  obtain ⟨hown, hout, hcurrent, hcurRec⟩ := hparts
  refine ⟨?_, ?_, KeyCtl.drivesAsHolder.of_keepsDrive hdrives hdrive⟩
  · rw [hown, hout]
    exact hlines
  · rw [hout, hdrive.drivers, State.keyingConditions_of_same hcurrent hcurRec]
    exact hbus

/-- Other lines on the bus, where the unit drives it, or none. -/
theorem State.keyingOk.of_lines (h : s.keyingOk) (hown : t.keying.own ≠ linesReleased → s.keying.out = .bus)
    (hout : t.keying.out = s.keying.out) (hcurrent : t.current = s.current) (hcurRec : t.curRec = s.curRec)
    (hkey : t.key = s.key) : t.keyingOk := by
  obtain ⟨-, hbus, hdrives⟩ := h
  refine ⟨fun hdriven => hout.trans (hown hdriven), ?_, ?_⟩
  · rw [hout, hkey, State.keyingConditions_of_same hcurrent hcurRec]
    exact hbus
  · rw [hkey]
    exact hdrives

/-- A unit that has released the bus and selected another output. -/
theorem State.keyingOk_of_off (hown : s.keying.own = linesReleased) (hout : s.keying.out ≠ .bus)
    (hdrives : s.key.drivesAsHolder) : s.keyingOk :=
  ⟨fun hdriven => absurd hown hdriven, fun hbus => absurd hbus hout, hdrives⟩

/-! ### Reset and RESTART (R122, R126) -/

theorem powerOnValues_keyingOk (p : Power) (s : State) : (s.powerOnValues p).keyingOk :=
  State.keyingOk_of_off rfl nofun nofun

theorem rstnRelease_keyingOk (h : s.keyingOk) : (rstnRelease s).keyingOk := by
  unfold rstnRelease
  split
  · exact powerOnValues_keyingOk _ s
  · exact h

theorem responseEnd_keyingOk (i : Instant) (h : s.keyingOk) : (responseEnd i s).keyingOk := by
  unfold responseEnd
  split
  · split
    · refine State.keyingOk_of_off ?_ nofun nofun
      rw [restart]
      dsimp only
      rw [State.releaseKeying_keying]
    · exact h.of_keepsKeying (.of_same rfl rfl)
  all_goals exact h

/-! ### The lines (R113, R125) -/

theorem State.collide_keyingOk (i : Instant) (s : State) : (s.collide i).keyingOk := by
  obtain ⟨bus, loop, hcollided⟩ := s.collide_collidesTo i
  rw [hcollided]
  exact State.keyingOk_of_off rfl nofun nofun

theorem State.putLines_keyingOk (i : Instant) (l : KeyingLines) (h : s.keyingOk) : (s.putLines i l).keyingOk := by
  have hlines := s.putLines_keying i l
  refine h.of_lines (fun hdriven => ?_) ?_ ?_ ?_ ?_
  · refine Decidable.byContradiction fun hnot => ?_
    rw [hlines, if_neg hnot] at hdriven
    exact hnot (h.1 hdriven)
  · rw [hlines]
  all_goals rw [State.putLines_frame]

theorem tickStart_keyingOk (h : s.keyingOk) : (tickStart s).keyingOk := by
  unfold tickStart
  dsimp only
  split
  · exact (State.putLines_keyingOk _ _ h).of_keepsKeying (.of_same rfl rfl)
  · exact h

/-- A strobe that ends releases lines, and drives none that was released. -/
theorem strobeEnd_keyingOk (h : s.keyingOk) : (strobeEnd s).keyingOk := by
  unfold strobeEnd
  split
  · refine h.of_lines (fun hdriven => h.1 fun hreleased => hdriven ?_) ?_ ?_ ?_ ?_
    · rw [State.driveLoop_keying, State.driveBus_keying, hreleased]
      rfl
    all_goals simp
  · exact h

theorem kylReadback_keyingOk (h : s.keyingOk) : (kylReadback s).keyingOk := by
  unfold kylReadback
  split
  · exact State.collide_keyingOk _ s
  · exact h

theorem holdSample_keyingOk (o : OthersDrive) (h : s.keyingOk) : (holdSample o s).keyingOk := by
  have htake (p : Nat) (u : State) (hu : u.keyingOk) : (takeHold p u).keyingOk := by
    unfold takeHold
    split
    · split
      · exact State.collide_keyingOk _ u
      · exact hu
    · split
      · exact hu.of_keepsKeying (.of_same rfl rfl)
      · exact hu
  have hread (w : Window) : State.keyingOk { s with win := w } := h.of_keepsKeying (.of_same rfl rfl)
  unfold holdSample
  dsimp only
  split
  · split
    · exact hread _
    · split
      · exact htake _ _ (hread _)
      · exact hread _
  · exact h

/-! ### The own edge and the realign (R66, R106, R125) -/

/-- An own edge releases the lines and selects the bus only for a unit whose drivers are enabled and whose keying conditions
hold. -/
theorem ownEdge_keyingOk (h : s.keyingOk) : (ownEdge s).keyingOk := by
  obtain ⟨-, hown, -, -, hout⟩ := ownEdge_keying s
  refine ⟨fun hdriven => absurd hown hdriven, fun hbus => ?_, ownEdge_drivesAsHolder h.2.2⟩
  rw [hout, State.selectedOutput] at hbus
  split at hbus
  · cases hbus
  · split at hbus
    next hkeys => exact (Bool.and_eq_true _ _).mp hkeys
    next => cases hbus

theorem State.afterRealign_keyingOk (e : Instant) (u : UtcTime) (h : s.keyingOk) : (s.afterRealign e u).keyingOk := by
  have hmoved : (s.realignedTo e u).keyingOk := by
    refine h.of_keepsKeying (.of_same ?_ ?_) <;> rw [State.realignedTo_frame]
    rfl
  cases hcurrent : (s.realignedTo e u).current with
  | none =>
    rw [State.afterRealign, realignDraft_of_none _ _ hcurrent]
    exact hmoved
  | some d =>
    by_cases hm : d.minute = u.toCount.minute
    · rw [State.afterRealign, ← hm, realignDraft_of_kept d _ hcurrent]
      split
      · exact hmoved
      · exact State.putLines_keyingOk _ _ hmoved
    · obtain ⟨-, -, hown, -, hout⟩ := realignDraft_parts_of_discarded _ d _ hcurrent hm
      refine State.keyingOk_of_off hown hout ?_
      rw [State.afterRealign, realignDraft_frame]
      exact hmoved.2.2

theorem realign_keyingOk (h : s.keyingOk) : (realign s).keyingOk := by
  by_cases hdue : s.trk.realignDue ∧ s.trk.armed ∧ s.trk.refState = .stepping
  · cases htarget : s.trk.realignTarget with
    | none => simpa [realign, hdue, htarget] using h
    | some target =>
      obtain ⟨e, u⟩ := target
      rw [realign_of_target s e u hdue.1 hdue.2.1 hdue.2.2 htarget]
      exact State.afterRealign_keyingOk e u h
  · rwa [realign, if_neg hdue]

end Kept

/-! ### Every other command -/

theorem perform_keyingParts (r : Request) (s : State) : (perform r s).state.keyingParts = s.keyingParts := by
  cases r <;> simp only [perform, readAnswer, answer]
  case descWrite b => rw [descWrite_frame]; rfl
  case descHand i => rw [descHand_frame]; rfl
  case descRecall i => rw [descRecall_frame]; rfl
  case descRead i => unfold descRead; split <;> rfl
  case laneStart l e g p => rw [laneStart_frame]; rfl
  case laneStop l => rw [laneStop_frame]; rfl
  case laneResume l => rw [laneResume_frame]; rfl
  case laneClear l => rw [laneClear_frame]; rfl
  case eventsClear m => unfold eventsClear; split <;> rfl
  case eventsEnable m => unfold eventsEnable; split <;> rfl
  case requestSet x y =>
    unfold requestSet
    split
    · dsimp only
      rw [redriveFlags_frame]
      rfl
    · rfl
  case keyYield => rw [keyYield_frame]; rfl
  case readmit => rw [readmit_frame]; rfl
  all_goals rfl

/-- The commands that may write the lines, the output, CURRENT or its record, or disable the drivers. -/
def writesKeying : Instr → Bool
  | .powerOn => true
  | .rstnAssert => true
  | .rstnRelease => true
  | .supplyLoss => true
  | .ownEdge => true
  | .realign => true
  | .tickStart => true
  | .strobeEnd => true
  | .kylReadback => true
  | .holdCellSample _ => true
  | .responseEnd _ => true
  | _ => false

theorem exec_keepsKeying (c : Instr) (hc : writesKeying c = false) (s t : State) (hexec : exec c s = .next t) :
    s.KeepsKeying t := by
  have hself : s.KeepsKeying s := .of_same rfl rfl
  have hwhen {f : State → State} (hf : s.KeepsKeying (f s)) : s.KeepsKeying (whenRunning f s) :=
    whenRunning_keeps s.KeepsKeying f s hself hf
  have hkey {f : State → State} {u : State} (hdrive : s.key.KeepsDrive (f s).key) (heq : f s = u)
      (hu : u.keyingParts = s.keyingParts) : s.KeepsKeying (whenRunning f s) := hwhen ⟨heq ▸ hu, hdrive⟩
  have hframe {f : State → State} {u : State} (heq : f s = u) (hu : u.keyingParts = s.keyingParts)
      (huKey : u.key = s.key) : s.KeepsKeying (whenRunning f s) := hwhen (heq ▸ .of_same hu huKey)
  have hrx (rx : Receiver) (u : State) (hu : s.KeepsKeying u) : s.KeepsKeying (u.setRx rx) :=
    hu.trans (.of_same rfl rfl)
  have hperform (r : Request) (u : State) (hu : s.KeepsKeying u) : s.KeepsKeying (perform r u).state :=
    hu.trans ⟨perform_keyingParts r u, perform_keepsDrive r u⟩
  have hcharacter (b : Byte) : s.KeepsKeying (whenRunning (cliCharacter b) s) :=
    hwhen (cliCharacter_keeps _ hrx hperform b s hself)
  cases c <;> obtain rfl := Host.Outcome.next.inj hexec
  case powerOn | rstnAssert | rstnRelease | supplyLoss => cases hc
  case ownEdge | realign | tickStart | strobeEnd | kylReadback | holdCellSample | responseEnd => cases hc
  case startIntervalEnd i pins =>
    unfold startIntervalEnd
    split
    · exact .of_same rfl rfl
    · exact hself
  case refpEdge i => exact hkey (refpEdge_keepsDrive i s) (refpEdge_frame i s) rfl
  case referenceMessage b => exact hkey (refdCharacter_keepsDrive b s) (refdCharacter_frame b s) rfl
  case refdCharacter b => exact hkey (refdCharacter_keepsDrive b s) (refdCharacter_frame b s) rfl
  case refdFramingError => exact hkey (endMessage_keepsDrive none s) (endMessage_frame none s) rfl
  case messageWindowExpiry => exact hkey (endMessage_keepsDrive none s) (endMessage_frame none s) rfl
  case notionalReferenceSecond => exact hkey (notionalSecond_keepsDrive s) (notionalSecond_frame s) rfl
  case deadWindow => exact hkey (deadWindow_keepsDrive s) (deadWindow_frame s) rfl
  case shadowSample o => exact hkey (shadowSample_keepsDrive o s) (shadowSample_frame o s) rfl
  case biddingSample o => exact hkey (biddingSample_keepsDrive o s) (biddingSample_frame o s) rfl
  case bidvalueCellSample o => exact hkey (bidvalueSample_keepsDrive o s) (bidvalueSample_frame o s) rfl
  case passDecision => exact hkey (passDecision_keepsDrive s) (passDecision_frame s) rfl
  case windowClose => exact hkey (windowClose_keepsDrive s) (windowClose_frame s) rfl
  case ownWindowStart => exact hframe (openWindow_frame s) rfl rfl
  case lateSync => exact hframe (lateSync_frame s) rfl rfl
  case syncEdgeObserved i => exact hframe (observeSync_frame i s) rfl rfl
  case cellDriveStart => exact hframe (cellStart_frame s) rfl rfl
  case flagCellSample o => exact hframe (flagSample_frame o s) rfl rfl
  case vacancy => exact hframe (vacancy_frame s) rfl rfl
  case digestCellSample o => exact hframe (digestSample_frame o s) rfl rfl
  case passResult => exact hframe (passResult_frame s) rfl rfl
  case assentCellSample o => exact hframe (assentSample_frame o s) rfl rfl
  case cusPulseEnd => exact hwhen (.of_same rfl rfl)
  case syncDriveEnd => exact hwhen (.of_same rfl rfl)
  case keyingBusChange i l =>
    unfold busChange
    dsimp only
    split <;> exact .of_same rfl rfl
  case cliFrame bytes => exact hwhen (cliFrame_keeps _ hrx hperform bytes s hself)
  case cliCharacter b => exact hcharacter b
  case cliLengthOverrun b => exact hcharacter b
  case cliFramingError =>
    refine hwhen ?_
    unfold cliFramingError
    split <;> exact .of_same rfl rfl
  case cliGapTimeout =>
    refine hwhen ?_
    unfold cliGapTimeout
    split <;> exact .of_same rfl rfl
  all_goals exact command_keeps _ hrx hperform _ s hself

theorem exec_keyingOk (c : Instr) (s t : State) (h : s.keyingOk) (hexec : exec c s = .next t) : t.keyingOk := by
  have hwhen {f : State → State} (hf : (f s).keyingOk) : (whenRunning f s).keyingOk := whenRunning_keeps _ f s h hf
  cases hc : writesKeying c with
  | false => exact h.of_keepsKeying (exec_keepsKeying c hc s t hexec)
  | true =>
    cases c <;> obtain rfl := Host.Outcome.next.inj hexec
    case powerOn | rstnAssert | supplyLoss => exact powerOnValues_keyingOk _ s
    case rstnRelease => exact rstnRelease_keyingOk h
    case ownEdge => exact hwhen (ownEdge_keyingOk h)
    case realign => exact hwhen (realign_keyingOk h)
    case tickStart => exact hwhen (tickStart_keyingOk h)
    case strobeEnd => exact hwhen (strobeEnd_keyingOk h)
    case kylReadback => exact hwhen (kylReadback_keyingOk h)
    case holdCellSample o => exact hwhen (holdSample_keyingOk o h)
    case responseEnd i => exact hwhen (responseEnd_keyingOk i h)
    all_goals cases hc

end Sys2Proof.Machine

open Sys2Proof Sys2Proof.Machine

/-- Settles O56: eleven commands may write what the condition reads, and each keeps it; the others leave the lines, the output,
CURRENT and its record, and the drivers of a holder (`exec_keepsKeying`). -/
theorem keyingConditionIsKept : Obligations.KeyingConditionIsKept := fun s t h hstep =>
  step_keeps State.keyingOk (fun _ _ h => h.of_keepsKeying (.of_same rfl rfl)) exec_keyingOk s t h hstep
end

section
/-! SUPPORT. The key items when the minute boundary of an own edge, if it is one, has been dealt with, and the output that the edge
selects (R105, R125). -/

namespace Sys2Proof.Machine

/-! ### The output -/

theorem assents_iff (record : Option ConcordRecord) :
    assents record = true ↔ ∃ r, record = some r ∧ r.outcome = .concord ∧ r.role = some .assent := by
  cases record <;> simp [assents]

/-- The keying conditions of R105. -/
theorem State.keyingConditions_iff (s : State) :
    s.keyingConditions = true ↔
      (∃ d c, s.current = some d ∧ d.coded = some c)
        ∧ ∃ r, s.curRec = some r ∧ r.outcome = .concord ∧ r.role = some .assent := by
  rw [← assents_iff]
  cases h : s.current with
  | none => simp [State.keyingConditions, h]
  | some d => simp [State.keyingConditions, h, Option.isSome_iff_exists]

section Output
variable (s : State)

theorem State.selectedOutput_eq_loop_iff :
    s.selectedOutput = .loop ↔ s.key.proof.running = true ∧ s.key.state = .proving := by
  simp only [State.selectedOutput, Bool.and_eq_true, beq_iff_eq]
  split
  next hproves => exact ⟨fun _ => hproves, fun _ => rfl⟩
  next hnot => split <;> exact ⟨nofun, fun hproves => absurd hproves hnot⟩

theorem State.selectedOutput_eq_bus_iff :
    s.selectedOutput = .bus ↔
      ¬(s.key.proof.running = true ∧ s.key.state = .proving) ∧ s.key.drivers = true ∧ s.keyingConditions = true := by
  simp only [State.selectedOutput, Bool.and_eq_true, beq_iff_eq]
  split
  next hproves => exact ⟨nofun, fun hkeys => absurd hproves hkeys.1⟩
  next hnot =>
    split
    next hdrives => exact ⟨fun _ => ⟨hnot, hdrives⟩, fun _ => rfl⟩
    next hoff => exact ⟨nofun, fun hkeys => absurd hkeys.2 hoff⟩

theorem ownEdge_out_ne_bus (h : (ownEdge s).key.drivers = false) : (ownEdge s).keying.out ≠ .bus := by
  obtain ⟨-, -, -, -, hout⟩ := ownEdge_keying s
  rw [hout, Ne, State.selectedOutput_eq_bus_iff, h]
  exact fun hkeys => nomatch hkeys.2.1

/-- Out of the proof minute, with the drivers enabled, it is the keying conditions that select the output. -/
theorem State.selectedOutput_of_driving (hstate : s.key.state ≠ .proving) (hdrives : s.key.drivers = true) :
    s.selectedOutput = if s.keyingConditions then .bus else .none := by
  simp [State.selectedOutput, hstate, hdrives]

end Output

/-! ### Items that only the key state's own part writes -/

/-- The drivers, the pending items, and the count of the holder's edges. -/
def KeyCtl.edgeItems (k : KeyCtl) : Bool × Option Nat × Bool × Bool × Nat :=
  (k.drivers, k.pendingTake, k.pendingRelease, k.pendingFence, k.heldEdges)

theorem endWindow_edgeItems (s : State) : (endWindow s).key.edgeItems = s.key.edgeItems := by
  obtain ⟨hkept, hcut⟩ := endWindow_key s
  by_cases hopened : s.win.phase = .opened
  · rw [hcut hopened]
    obtain hkey | ⟨-, -, -, hkey⟩ := cancelUnreadYield_key s <;> rw [hkey] <;> rfl
  · rw [hkept hopened]

theorem State.edgeCounted_edgeItems (s : State) : s.edgeCounted.key.edgeItems = s.key.edgeItems := by
  obtain ⟨m, b, hkey, -⟩ := secondEnds_key s.windowRead s.trk.nextEdge (endWindow s)
  rw [s.edgeCounted_key, hkey, ← endWindow_edgeItems s]
  rfl

theorem KeyCtl.judged_edgeItems (record : Option ConcordRecord) (k : KeyCtl) :
    (k.judged record).edgeItems = k.edgeItems := by
  unfold KeyCtl.judged
  split <;> rfl

theorem KeyCtl.proofBegun_edgeItems (k : KeyCtl) : k.proofBegun.edgeItems = k.edgeItems := by
  unfold KeyCtl.proofBegun
  split <;> rfl

theorem State.edgeTurned_edgeItems (s : State) : s.edgeTurned.key.edgeItems = s.key.edgeItems := by
  unfold State.edgeTurned
  split
  · rw [minuteBoundary_key, KeyCtl.proofBegun_edgeItems]
    exact (KeyCtl.judged_edgeItems _ _).trans s.edgeCounted_edgeItems
  · exact s.edgeCounted_edgeItems

theorem State.edgeTurned_pending (s : State) :
    s.edgeTurned.key.drivers = s.key.drivers ∧ s.edgeTurned.key.pendingTake = s.key.pendingTake
      ∧ s.edgeTurned.key.pendingRelease = s.key.pendingRelease ∧ s.edgeTurned.key.pendingFence = s.key.pendingFence
      ∧ s.edgeTurned.key.heldEdges = s.key.heldEdges := by
  have hitems := s.edgeTurned_edgeItems
  simpa only [KeyCtl.edgeItems, Prod.mk.injEq] using hitems

/-! ### The key items before the boundary -/

theorem State.edgeCounted_keyState (s : State) : s.edgeCounted.key.state = s.yieldEnded.key.state := by
  rw [s.edgeCounted_key, secondEnds_keyState]
  exact (endWindow_yield s).1

theorem State.edgeCounted_proof (s : State) :
    ∃ m b, s.edgeCounted.key.proof = { s.key.proof with matched := m, missed := b } := by
  obtain ⟨m, b, hkey, -⟩ := secondEnds_key s.windowRead s.trk.nextEdge (endWindow s)
  rw [s.edgeCounted_key, hkey, endWindow_proof]
  exact ⟨m, b, rfl⟩

theorem State.edgeCounted_curRec (s : State) : s.edgeCounted.curRec = s.curRec := by
  rw [s.edgeCounted_frame]

/-- What the looped second that ends adds to the proof at its own edge (R119, R133). -/
theorem State.edgeCounted_missed {s : State} {m : OpenMinute} (hrunning : s.key.proof.running = true)
    (hm : s.dec.openMinute = some m) (hlength : m.entries.length = s.trk.second) :
    s.edgeCounted.key.proof.missed = false ↔
      s.key.proof.missed = false ∧ s.trk.lastEdge + 980000 ≤ s.trk.nextEdge
        ∧ ∃ d, s.current = some d
          ∧ observeSpan s.trk.second s.trk.lastEdge s.dec.loopBase s.dec.loopTrace =
              expectedObservation d s.trk.second := by
  have hframe := endWindow_frame s
  have htrk : (endWindow s).trk = s.trk := by rw [hframe]
  have hcurrent : (endWindow s).current = s.current := by rw [hframe]
  have hproof := endWindow_proof s
  have hlines := endWindow_lines s
  simp only [Decoder.lines, Prod.mk.injEq] at hlines
  obtain ⟨-, hbase, htrace⟩ := hlines
  have hentries := endWindow_entries s
  rw [hm, Option.map_some, Option.map_eq_some_iff] at hentries
  obtain ⟨m', hm', hsame⟩ := hentries
  have hmissed := secondEnds_missed s.windowRead s.trk.nextEdge (hproof ▸ hrunning) hm'
    (by rw [hsame, htrk]; exact hlength)
  rwa [htrk, hcurrent, hproof, hbase, htrace, ← s.edgeCounted_key] at hmissed

/-! ### The key state after the boundary -/

theorem KeyCtl.judged_of_idle {k : KeyCtl} (h : ¬(k.proof.running = true ∧ k.state = .proving))
    (record : Option ConcordRecord) : k.judged record = k := if_neg h

theorem KeyCtl.listened_state_of_awake {k : KeyCtl} (h : k.state ≠ .dormant) (ref : RefState) :
    (k.listened ref).state = k.state := if_neg fun hbecomes => h hbecomes.1

theorem KeyCtl.proofBegun_eq (k : KeyCtl) :
    k.proofBegun = { k with proof := { k.proof with running := k.proof.running || k.proof.minute.isSome } } := by
  unfold KeyCtl.proofBegun
  split <;> simp [*]

section Turned
variable {s : State}

theorem State.edgeTurned_of_boundary (h : s.trk.boundaryNext = true) :
    s.edgeTurned.key =
      ((s.edgeCounted.key.judged s.curRec).listened s.trk.atEdge.refState).proofBegun := by
  rw [State.edgeTurned, if_pos h, minuteBoundary_key, s.edgeCounted_curRec, s.edgeCounted_trk]

theorem State.edgeTurned_of_not_boundary (h : s.trk.boundaryNext = false) : s.edgeTurned = s.edgeCounted :=
  if_neg (by rw [h]; decide)

/-- A yield is cancelled only at a boundary, and of a YIELDING unit. -/
theorem State.yieldEnded_of_not_boundary (h : s.trk.boundaryNext = false) : s.yieldEnded = s := by
  obtain hsame | ⟨⟨hboundary, -⟩, -⟩ := s.yieldEnded_cases
  · exact hsame
  · rw [h] at hboundary
    cases hboundary

theorem State.yieldEnded_of_not_yielding (h : s.key.state ≠ .yielding) : s.yieldEnded = s := by
  obtain hsame | ⟨⟨-, hyielding, -⟩, -⟩ := s.yieldEnded_cases
  · exact hsame
  · exact absurd hyielding h

theorem State.edgeTurned_keyState_of_not_boundary (h : s.trk.boundaryNext = false) :
    s.edgeTurned.key.state = s.key.state := by
  rw [State.edgeTurned_of_not_boundary h, s.edgeCounted_keyState, State.yieldEnded_of_not_boundary h]

theorem State.yieldEnded_awake (h : s.key.state ≠ .dormant) : s.yieldEnded.key.state ≠ .dormant := by
  obtain hsame | ⟨-, hended⟩ := s.yieldEnded_cases
  · rwa [hsame]
  · rw [hended]
    nofun

/-- A unit that is neither DORMANT nor judged has the key state that the end of the window leaves. -/
theorem State.edgeTurned_keyState_of_awake (hawake : s.key.state ≠ .dormant)
    (hidle : ¬(s.key.proof.running = true ∧ s.key.state = .proving)) :
    s.edgeTurned.key.state = s.yieldEnded.key.state := by
  cases hboundary : s.trk.boundaryNext with
  | false => rw [State.edgeTurned_of_not_boundary hboundary, s.edgeCounted_keyState]
  | true =>
    obtain ⟨m, b, hproof⟩ := s.edgeCounted_proof
    have hidle' : ¬(s.edgeCounted.key.proof.running = true ∧ s.edgeCounted.key.state = .proving) := by
      rw [hproof, s.edgeCounted_keyState]
      obtain hsame | ⟨-, hended⟩ := s.yieldEnded_cases
      · rwa [hsame]
      · rw [hended]
        exact fun h => nomatch h.2
    rw [State.edgeTurned_of_boundary hboundary, KeyCtl.proofBegun_eq, KeyCtl.judged_of_idle hidle']
    dsimp only
    rw [KeyCtl.listened_state_of_awake, s.edgeCounted_keyState]
    rw [s.edgeCounted_keyState]
    exact State.yieldEnded_awake hawake

/-- Nothing before the key state's own part makes a unit YIELDING. -/
theorem State.edgeTurned_not_yielding (h : s.key.state ≠ .yielding) : s.edgeTurned.key.state ≠ .yielding := by
  have hjudged (k : KeyCtl) (r : Option ConcordRecord) (hk : k.state ≠ .yielding) : (k.judged r).state ≠ .yielding := by
    unfold KeyCtl.judged
    split
    · dsimp only
      split <;> nofun
    · exact hk
  have hlistened (k : KeyCtl) (ref : RefState) (hk : k.state ≠ .yielding) : (k.listened ref).state ≠ .yielding := by
    rw [KeyCtl.listened_state]
    split
    · nofun
    · exact hk
  have hcounted : s.edgeCounted.key.state ≠ .yielding := by
    rwa [s.edgeCounted_keyState, State.yieldEnded_of_not_yielding h]
  cases hboundary : s.trk.boundaryNext with
  | false => rwa [State.edgeTurned_of_not_boundary hboundary]
  | true =>
    rw [State.edgeTurned_of_boundary hboundary, KeyCtl.proofBegun_eq]
    exact hlistened _ _ (hjudged _ _ hcounted)

/-- The yield that the window keeps comes to the key state's own part as the end of the window leaves it. -/
theorem State.edgeTurned_yieldUnread (s : State) : s.edgeTurned.win.yieldUnread = s.yieldEnded.win.yieldUnread := by
  rw [← (endWindow_yield s).2.2, ← s.edgeCounted_window.1]
  unfold State.edgeTurned
  split
  · rw [minuteBoundary_frame]
  · rfl

theorem State.edgeTurned_latched_yieldCancelled (s : State) :
    s.edgeTurned.latched .yieldCancelled = s.yieldEnded.latched .yieldCancelled := by
  have hcounted : s.edgeCounted.latched .yieldCancelled = s.yieldEnded.latched .yieldCancelled := by
    rw [State.edgeCounted, trackerEdge_raises (f := .yieldCancelled) _ nofun nofun,
      State.latched_of_ev (State.releaseKeying_ev _ _),
      secondEnds_raises (f := .yieldCancelled) _ _ _ nofun, State.latched_of_ev (endWindow_yield s).2.1]
  unfold State.edgeTurned
  split
  · rw [minuteBoundary_raises (f := .yieldCancelled) _ _ nofun nofun nofun nofun nofun nofun nofun, hcounted]
  · exact hcounted

end Turned
end Sys2Proof.Machine
end

section
/-! SUPPORT. The key state after an own edge, cause by cause: a fence, a take, a release, a yield, a proof, and none of them (R110,
R112, R115, R119, R120). -/

namespace Sys2Proof.Machine

section Edge
variable {s : State}

/-! ### When the key state is settled -/

theorem State.edgeSettled_of_fence (hfence : s.key.pendingFence = true) :
    s.edgeSettled =
      { s.edgeTurned with
        key :=
          { s.edgeTurned.key with
            state := .fenced, drivers := false, pendingFence := false, pendingRelease := false, heldEdges := 0 } }.raise
        .fenced := by
  obtain ⟨-, -, -, hturned, -⟩ := s.edgeTurned_pending
  exact keyEdge_of_fence (hturned.trans hfence)

theorem State.edgeSettled_of_take (hfence : s.key.pendingFence = false) (htake : s.key.pendingTake ≠ none) :
    s.edgeSettled =
      { s.edgeTurned with
        key := { s.edgeTurned.key with state := .holding, drivers := true, pendingTake := none, heldEdges := 1 } }.raise
        .keyTaken := by
  obtain ⟨-, hturnedTake, -, hturnedFence, -⟩ := s.edgeTurned_pending
  exact keyEdge_of_take (hturnedFence.trans hfence) (hturnedTake ▸ htake)

section Neither
variable (hfence : s.key.pendingFence = false) (htake : s.key.pendingTake = none)
include hfence htake

theorem State.edgeSettled_of_release (hboundary : s.trk.boundaryNext = true)
    (hyielding : s.edgeTurned.key.state = .yielding) (hrelease : s.key.pendingRelease = true) :
    s.edgeSettled =
      { s.edgeTurned with
        key :=
          { s.edgeTurned.key with state := .standby, drivers := false, pendingRelease := false, heldEdges := 0 } }.raise
        .keyReleased := by
  obtain ⟨-, hturnedTake, hturnedRelease, hturnedFence, -⟩ := s.edgeTurned_pending
  rw [State.edgeSettled, hboundary]
  exact keyEdge_of_release (hturnedFence.trans hfence) (hturnedTake.trans htake) hyielding (hturnedRelease.trans hrelease)

theorem State.edgeSettled_of_unread (hboundary : s.trk.boundaryNext = true)
    (hyielding : s.edgeTurned.key.state = .yielding) (hrelease : s.key.pendingRelease = false)
    (hunread : s.edgeTurned.win.yieldUnread = true) :
    s.edgeSettled =
      { s.edgeTurned with
        key :=
          { s.edgeTurned.key with
            state := .holding, heldEdges := min 2 (s.edgeTurned.key.heldEdges + 1) } }.raise .yieldCancelled := by
  obtain ⟨-, hturnedTake, hturnedRelease, hturnedFence, -⟩ := s.edgeTurned_pending
  rw [State.edgeSettled, hboundary]
  exact keyEdge_of_unread (hturnedFence.trans hfence) (hturnedTake.trans htake) hyielding
    (hturnedRelease.trans hrelease) hunread

theorem State.edgeSettled_of_other
    (hother : s.trk.boundaryNext = true → s.edgeTurned.key.state = .yielding →
      s.key.pendingRelease = false ∧ s.edgeTurned.win.yieldUnread = false) :
    s.edgeSettled =
      { s.edgeTurned with
        key :=
          { s.edgeTurned.key with
            heldEdges :=
              if s.edgeTurned.key.state = .holding ∨ s.edgeTurned.key.state = .yielding then
                min 2 (s.edgeTurned.key.heldEdges + 1)
              else 0 } } := by
  obtain ⟨-, hturnedTake, hturnedRelease, hturnedFence, -⟩ := s.edgeTurned_pending
  refine keyEdge_of_other (hturnedFence.trans hfence) (hturnedTake.trans htake) fun hboundary hyielding => ?_
  rw [hturnedRelease]
  exact hother hboundary hyielding

end Neither

/-! ### A fence and a take (R110, R115) -/

theorem ownEdge_of_fence (hfence : s.key.pendingFence = true) :
    (ownEdge s).key.state = .fenced ∧ (ownEdge s).key.drivers = false ∧ (ownEdge s).key.pendingFence = false
      ∧ (ownEdge s).key.pendingRelease = false ∧ (ownEdge s).latched .fenced = true := by
  obtain ⟨p, hkey, -⟩ := ownEdge_key s
  have hlatched := ownEdge_latched_of_settled s .fenced
  rw [State.edgeSettled_of_fence hfence] at hkey hlatched
  rw [hkey]
  exact ⟨rfl, rfl, rfl, rfl, hlatched (State.raise_latches _ _)⟩

theorem ownEdge_of_take (hfence : s.key.pendingFence = false) (htake : s.key.pendingTake ≠ none) :
    (ownEdge s).key.state = .holding ∧ (ownEdge s).key.drivers = true ∧ (ownEdge s).key.pendingTake = none
      ∧ (ownEdge s).latched .keyTaken = true := by
  obtain ⟨p, hkey, -⟩ := ownEdge_key s
  have hlatched := ownEdge_latched_of_settled s .keyTaken
  rw [State.edgeSettled_of_take hfence htake] at hkey hlatched
  rw [hkey]
  exact ⟨rfl, rfl, rfl, hlatched (State.raise_latches _ _)⟩

/-! ### A yield at a boundary (R111, R112) -/

/-- A YIELDING unit is neither DORMANT nor judged. -/
theorem State.edgeTurned_keyState_of_yielding (hyielding : s.key.state = .yielding) :
    s.edgeTurned.key.state = s.yieldEnded.key.state :=
  State.edgeTurned_keyState_of_awake (by rw [hyielding]; nofun) fun hproving => by
    rw [hyielding] at hproving
    exact nomatch hproving.2

section Yield
variable (hboundary : s.trk.boundaryNext = true) (hfence : s.key.pendingFence = false)
  (htake : s.key.pendingTake = none) (hyielding : s.key.state = .yielding)
include hboundary hfence htake hyielding

/-- A pending release says that the window's yield was resolved, so its end cancels none. -/
theorem ownEdge_of_release (hrelease : s.key.pendingRelease = true) :
    (ownEdge s).key.state = .standby ∧ (ownEdge s).key.drivers = false ∧ (ownEdge s).key.pendingRelease = false
      ∧ (ownEdge s).latched .keyReleased = true := by
  have hended : s.yieldEnded = s := by
    unfold State.yieldEnded
    split
    · exact if_pos (.inl hrelease)
    · rfl
  have hturned : s.edgeTurned.key.state = .yielding := by
    rw [State.edgeTurned_keyState_of_yielding hyielding, hended, hyielding]
  obtain ⟨p, hkey, -⟩ := ownEdge_key s
  have hlatched := ownEdge_latched_of_settled s .keyReleased
  rw [State.edgeSettled_of_release hfence htake hboundary hturned hrelease] at hkey hlatched
  rw [hkey]
  exact ⟨rfl, rfl, rfl, hlatched (State.raise_latches _ _)⟩

/-- A yield without a BIDDING reading is cancelled, by the window that the edge cuts or else by the boundary. -/
theorem ownEdge_of_unread (hrelease : s.key.pendingRelease = false) (hunread : s.win.yieldUnread = true) :
    (ownEdge s).key.state = .holding ∧ (ownEdge s).key.drivers = s.key.drivers
      ∧ (ownEdge s).latched .yieldCancelled = true := by
  have hturned := State.edgeTurned_keyState_of_yielding hyielding
  obtain ⟨hdrivers, -⟩ := s.edgeTurned_pending
  obtain ⟨p, hkey, -⟩ := ownEdge_key s
  have hlatched := ownEdge_latched_of_settled s .yieldCancelled
  obtain hsame | ⟨-, hended⟩ := s.yieldEnded_cases
  · have hturnedUnread : s.edgeTurned.win.yieldUnread = true := by rw [s.edgeTurned_yieldUnread, hsame, hunread]
    rw [hsame, hyielding] at hturned
    rw [State.edgeSettled_of_unread hfence htake hboundary hturned hrelease hturnedUnread] at hkey hlatched
    rw [hkey]
    exact ⟨rfl, hdrivers, hlatched (State.raise_latches _ _)⟩
  · have hraised : s.edgeTurned.latched .yieldCancelled = true := by
      rw [s.edgeTurned_latched_yieldCancelled, hended]
      exact State.raise_latches _ _
    have hholding : s.edgeTurned.key.state = .holding := by rw [hturned, hended]; rfl
    rw [State.edgeSettled_of_other hfence htake fun _ h => by rw [hholding] at h; cases h] at hkey hlatched
    rw [hkey]
    exact ⟨hholding, hdrivers, hlatched hraised⟩

/-- A yield that is to be resolved in the next minute waits. -/
theorem ownEdge_of_waiting_yield (hrelease : s.key.pendingRelease = false) (hlater : s.win.yieldUnread = false) :
    (ownEdge s).key.state = .yielding ∧ (ownEdge s).key.drivers = s.key.drivers
      ∧ (ownEdge s).latched .yieldCancelled = s.latched .yieldCancelled := by
  have hsame : s.yieldEnded = s := by
    obtain hsame | ⟨⟨-, -, hunread⟩, -⟩ := s.yieldEnded_cases
    · exact hsame
    · rw [hlater] at hunread
      cases hunread
  have hturned : s.edgeTurned.key.state = .yielding := by
    rw [State.edgeTurned_keyState_of_yielding hyielding, hsame, hyielding]
  obtain ⟨hdrivers, -⟩ := s.edgeTurned_pending
  have hwaits : s.trk.boundaryNext = true → s.edgeTurned.key.state = .yielding →
      s.key.pendingRelease = false ∧ s.edgeTurned.win.yieldUnread = false :=
    fun _ _ => ⟨hrelease, by rw [s.edgeTurned_yieldUnread, hsame, hlater]⟩
  obtain ⟨p, hkey, -⟩ := ownEdge_key s
  have hev : (ownEdge s).ev = s.edgeTurned.ev := by
    rw [ownEdge_ev_of_boundary s hboundary, State.edgeSettled_of_other hfence htake hwaits]
  rw [State.edgeSettled_of_other hfence htake hwaits] at hkey
  rw [hkey, State.latched_of_ev hev, s.edgeTurned_latched_yieldCancelled, hsame]
  exact ⟨hturned, hdrivers, rfl⟩

end Yield

/-! ### The proof (R119, R120) -/

theorem State.edgeSettled_proof (s : State) : s.edgeSettled.key.proof = s.edgeTurned.key.proof := keyEdge_proof _ _

theorem KeyCtl.referenceRead_refHeld (ref : RefState) (k : KeyCtl) :
    (k.referenceRead ref).proof.refHeld =
      if k.proof.running = true ∧ ref ≠ .locked ∧ ref ≠ .holdover then false else k.proof.refHeld := by
  unfold KeyCtl.referenceRead
  split <;> rfl

/-- An own edge within the proof minute reads the reference state (R119). -/
theorem ownEdge_of_proof_within (hboundary : s.trk.boundaryNext = false) (hrunning : s.key.proof.running = true) :
    (ownEdge s).key.proof.running = true
      ∧ (ownEdge s).key.proof.refHeld = (s.key.referenceRead (ownEdge s).trk.refState).proof.refHeld := by
  obtain ⟨m, b, hproof⟩ := s.edgeCounted_proof
  have hsettled : s.edgeSettled.key.proof = { s.key.proof with matched := m, missed := b } := by
    rw [s.edgeSettled_proof, State.edgeTurned_of_not_boundary hboundary, hproof]
  obtain ⟨p, hkey, hpRunning, hpHeld, -⟩ := ownEdge_key s
  rw [KeyCtl.referenceRead_refHeld, hsettled] at hpHeld
  rw [hkey, ownEdge_trk, KeyCtl.referenceRead_refHeld]
  exact ⟨by rw [hpRunning, hsettled]; exact hrunning, hpHeld⟩

/-- The boundary at which a designated proof minute begins reads the reference state too (R119, log 25). -/
theorem ownEdge_of_proof_beginning (hboundary : s.trk.boundaryNext = true) (hidle : s.key.proof.running = false)
    (hdesignated : s.key.proof.minute ≠ none) :
    (ownEdge s).key.proof.running = true
      ∧ (ownEdge s).key.proof.refHeld = decide (s.key.proof.refHeld = true
          ∧ ((ownEdge s).trk.refState = .locked ∨ (ownEdge s).trk.refState = .holdover)) := by
  obtain ⟨m, b, hproof⟩ := s.edgeCounted_proof
  have hnot : ¬(s.edgeCounted.key.proof.running = true ∧ s.edgeCounted.key.state = .proving) := by
    rw [hproof]
    exact fun h => by simp [hidle] at h
  have hsettled : s.edgeSettled.key.proof = { s.key.proof with matched := m, missed := b, running := true } := by
    rw [s.edgeSettled_proof, State.edgeTurned_of_boundary hboundary, KeyCtl.judged_of_idle hnot, KeyCtl.proofBegun_eq,
      KeyCtl.listened_proof, hproof]
    simp [Option.isSome_iff_ne_none.mpr hdesignated]
  obtain ⟨p, hkey, hpRunning, hpHeld, -⟩ := ownEdge_key s
  rw [KeyCtl.referenceRead_refHeld, hsettled] at hpHeld
  rw [hkey, ownEdge_trk]
  refine ⟨by rw [hpRunning, hsettled], hpHeld.trans ?_⟩
  cases s.trk.atEdge.refState <;> simp

/-- The verdict on a proof whose minute ends (R120). -/
theorem ownEdge_of_proof_ending (hboundary : s.trk.boundaryNext = true) (hfence : s.key.pendingFence = false)
    (htake : s.key.pendingTake = none) (hproving : s.key.state = .proving) (hrunning : s.key.proof.running = true) :
    (ownEdge s).key.state = (if proofGood s.edgeCounted.key.proof s.curRec then .standby else .fenced)
      ∧ (ownEdge s).latched (if proofGood s.edgeCounted.key.proof s.curRec then .proven else .provingFailed) = true
      ∧ (ownEdge s).key.proof.minute = none ∧ (ownEdge s).key.proof.running = false := by
  obtain ⟨m, b, hproof⟩ := s.edgeCounted_proof
  have hcountedRunning : s.edgeCounted.key.proof.running = true := by rw [hproof]; exact hrunning
  have hcountedProving : s.edgeCounted.key.state = .proving := by
    rw [s.edgeCounted_keyState, State.yieldEnded_of_not_yielding (by rw [hproving]; nofun), hproving]
  have hjudged : s.edgeCounted.key.judged s.curRec =
      { s.edgeCounted.key with
        state := if proofGood s.edgeCounted.key.proof s.curRec then .standby else .fenced, proof := Proof.reset } :=
    if_pos ⟨hcountedRunning, hcountedProving⟩
  have hturned : s.edgeTurned.key.state =
        (if proofGood s.edgeCounted.key.proof s.curRec then .standby else .fenced)
      ∧ s.edgeTurned.key.proof = Proof.reset := by
    rw [State.edgeTurned_of_boundary hboundary, KeyCtl.proofBegun_eq]
    refine ⟨?_, ?_⟩
    · dsimp only
      rw [KeyCtl.listened_state_of_awake] <;> rw [hjudged]
      dsimp only
      split <;> nofun
    · rw [hjudged]
      rfl
  have hturnedLatched : s.edgeTurned.latched
      (if proofGood s.edgeCounted.key.proof s.curRec then .proven else .provingFailed) = true := by
    rw [State.edgeTurned, if_pos hboundary, ← s.edgeCounted_curRec]
    exact minuteBoundary_latched_of_proof _ hcountedRunning hcountedProving
  have hnotYielding : s.edgeTurned.key.state ≠ .yielding := State.edgeTurned_not_yielding (by rw [hproving]; nofun)
  obtain ⟨p, hkey, hpRunning, -, hpMinute⟩ := ownEdge_key s
  have hlatched := ownEdge_latched_of_settled s
    (if proofGood s.edgeCounted.key.proof s.curRec then .proven else .provingFailed)
  rw [s.edgeSettled_proof, hturned.2] at hpRunning hpMinute
  rw [State.edgeSettled_of_other hfence htake fun _ h => absurd h hnotYielding] at hkey hlatched
  rw [hkey]
  exact ⟨hturned.1, hlatched hturnedLatched, hpMinute hboundary, hpRunning⟩

theorem proofGood_iff (p : Proof) (record : Option ConcordRecord) :
    proofGood p record = true ↔
      (∃ r, record = some r ∧ r.outcome = .concord ∧ r.role = some .assent) ∧ p.missed = false ∧ p.refHeld = true := by
  simp only [proofGood, Bool.and_eq_true, Bool.not_eq_true', assents_iff, and_assoc]

/-! ### Every other edge -/

/-- An edge at which no yield ends leaves the key state and the drivers as the boundary left them. -/
theorem ownEdge_of_no_yield (hfence : s.key.pendingFence = false) (htake : s.key.pendingTake = none)
    (hnot : s.trk.boundaryNext = true → s.key.state ≠ .yielding) :
    (ownEdge s).key.state = s.edgeTurned.key.state ∧ (ownEdge s).key.drivers = s.key.drivers := by
  obtain ⟨hdrivers, -⟩ := s.edgeTurned_pending
  obtain ⟨p, hkey, -⟩ := ownEdge_key s
  rw [State.edgeSettled_of_other hfence htake fun hb h =>
    absurd h (State.edgeTurned_not_yielding (hnot hb))] at hkey
  rw [hkey]
  exact ⟨rfl, hdrivers⟩

/-- A DORMANT unit whose open window the edge cuts has no minute listened to whole (R121). -/
theorem State.edgeTurned_keyState_of_cut (hdormant : s.key.state = .dormant) (hopened : s.win.phase = .opened) :
    s.edgeTurned.key.state = .dormant := by
  cases hboundary : s.trk.boundaryNext with
  | false => rw [State.edgeTurned_keyState_of_not_boundary hboundary, hdormant]
  | true =>
    have hcounted : s.edgeCounted.key.state = .dormant := by
      rw [s.edgeCounted_keyState, State.yieldEnded_of_not_yielding (by rw [hdormant]; nofun), hdormant]
    have hlistening : s.edgeCounted.key.listening = 0 ∧ s.edgeCounted.key.listenOpen = false := by
      obtain ⟨m, b, hkey, -⟩ := secondEnds_key s.windowRead s.trk.nextEdge (endWindow s)
      rw [s.edgeCounted_key, hkey, (endWindow_key s).2 hopened]
      exact ⟨rfl, rfl⟩
    have hnone (ref : RefState) : (s.edgeCounted.key.listened ref).listening ≠ 2 := by
      simp [KeyCtl.listened, hlistening]
    rw [State.edgeTurned_of_boundary hboundary, KeyCtl.proofBegun_eq,
      KeyCtl.judged_of_idle fun h => by rw [hcounted] at h; exact nomatch h.2]
    dsimp only
    rw [KeyCtl.listened_state, if_neg fun h => hnone _ h.2.1, hcounted]

/-- A unit that holds the key and does not yield, and one that neither listens nor is judged, keeps its key state. -/
theorem ownEdge_keeps_keyState (hfence : s.key.pendingFence = false) (htake : s.key.pendingTake = none)
    (hkept : s.trk.boundaryNext = false ∨ s.key.state = .holding ∨ s.key.state = .standby ∨ s.key.state = .fenced
      ∨ (s.key.state = .proving ∧ s.key.proof.running = false) ∨ (s.key.state = .dormant ∧ s.win.phase = .opened)) :
    (ownEdge s).key.state = s.key.state ∧ (ownEdge s).key.drivers = s.key.drivers := by
  have hsettles (hnot : s.trk.boundaryNext = true → s.key.state ≠ .yielding)
      (hturned : s.edgeTurned.key.state = s.key.state) :
      (ownEdge s).key.state = s.key.state ∧ (ownEdge s).key.drivers = s.key.drivers := by
    obtain ⟨hstate, hdrivers⟩ := ownEdge_of_no_yield hfence htake hnot
    exact ⟨hstate.trans hturned, hdrivers⟩
  have hidle (hnot : s.key.state ≠ .yielding) (hawake : s.key.state ≠ .dormant)
      (hunjudged : ¬(s.key.proof.running = true ∧ s.key.state = .proving)) :
      (ownEdge s).key.state = s.key.state ∧ (ownEdge s).key.drivers = s.key.drivers := by
    refine hsettles (fun _ => hnot) ?_
    rw [State.edgeTurned_keyState_of_awake hawake hunjudged, State.yieldEnded_of_not_yielding hnot]
  obtain hboundary | hholding | hstandby | hfenced | ⟨hproving, hidling⟩ | ⟨hdormant, hopened⟩ := hkept
  · refine hsettles (fun h => ?_) (State.edgeTurned_keyState_of_not_boundary hboundary)
    rw [hboundary] at h
    cases h
  · exact hidle (by simp [hholding]) (by simp [hholding]) (by simp [hholding])
  · exact hidle (by simp [hstandby]) (by simp [hstandby]) (by simp [hstandby])
  · exact hidle (by simp [hfenced]) (by simp [hfenced]) (by simp [hfenced])
  · exact hidle (by simp [hproving]) (by simp [hproving]) (by simp [hidling])
  · exact hsettles (fun _ => by simp [hdormant])
      ((State.edgeTurned_keyState_of_cut hdormant hopened).trans hdormant.symm)

/-- The count of the holder's edges (R115). -/
theorem keyEdge_heldEdges (boundary : Bool) (s : State) :
    (keyEdge boundary s).key.heldEdges =
      if s.key.pendingFence = true then 0
      else if s.key.pendingTake ≠ none then 1
      else if (keyEdge boundary s).key.state = .holding ∨ (keyEdge boundary s).key.state = .yielding then
        min 2 (s.key.heldEdges + 1)
      else 0 := by
  cases hfence : s.key.pendingFence with
  | true => rw [keyEdge_of_fence hfence]; rfl
  | false =>
    rw [if_neg nofun]
    by_cases htake : s.key.pendingTake = none
    · rw [if_neg (not_not_intro htake)]
      by_cases hyields : boundary = true ∧ s.key.state = .yielding
      · obtain ⟨rfl, hyielding⟩ := hyields
        cases hrelease : s.key.pendingRelease with
        | true => rw [keyEdge_of_release hfence htake hyielding hrelease]; rfl
        | false =>
          cases hunread : s.win.yieldUnread with
          | true => rw [keyEdge_of_unread hfence htake hyielding hrelease hunread]; rfl
          | false => rw [keyEdge_of_other hfence htake fun _ _ => ⟨hrelease, hunread⟩]
      · rw [keyEdge_of_other hfence htake fun hb hy => absurd ⟨hb, hy⟩ hyields]
    · rw [if_pos htake, keyEdge_of_take hfence htake]
      rfl

theorem ownEdge_heldEdges (s : State) :
    (ownEdge s).key.heldEdges =
      if s.key.pendingFence = true then 0
      else if s.key.pendingTake ≠ none then 1
      else if (ownEdge s).key.state = .holding ∨ (ownEdge s).key.state = .yielding then min 2 (s.key.heldEdges + 1)
      else 0 := by
  obtain ⟨-, htake, -, hfence, hheld⟩ := s.edgeTurned_pending
  obtain ⟨p, hkey, -⟩ := ownEdge_key s
  rw [hkey, ← htake, ← hfence, ← hheld]
  exact keyEdge_heldEdges _ _

end Edge
end Sys2Proof.Machine

open Sys2Proof Sys2Proof.Machine

/-- Settles O20: each cause of a change of the key state by its own lemma, a boundary by the key items that it turns
(`State.edgeTurned`), and the output by `State.selectedOutput`. -/
theorem keyStateAtTheOwnEdge : Obligations.KeyStateAtTheOwnEdge := by
  intro s hrun
  obtain ⟨-, hown, -, -, hout⟩ := ownEdge_keying s
  have hahead : s.boundaryAhead ↔ s.trk.boundaryNext = true := State.boundaryAhead_iff hrun
  have hwithin (h : ¬s.boundaryAhead) : s.trk.boundaryNext = false := Bool.eq_false_iff.mpr (mt hahead.mpr h)
  refine ⟨ownEdge s, exec_ownEdge_of_running s hrun, fun hfence => ?_, fun hfence htake => ?_,
    fun hfence htake hboundary hyielding => ⟨fun hrelease => ?_, fun hrelease => ⟨fun hunread => ?_, fun a ha hlater => ?_⟩⟩,
    fun m hboundary hproving hrunning hfence htake hm hlength => ?_, fun hrunning hboundary => ?_,
    fun hboundary hidle hdesignated => ?_, fun hfence htake hkept => ?_, fun hfence htake hkept => ?_,
    ownEdge_heldEdges s, ?_, ?_⟩
  · obtain ⟨hstate, hdrivers, hcleared, hrelease, hlatched⟩ := ownEdge_of_fence hfence
    exact ⟨hstate, hdrivers, hcleared, hrelease, hown, ownEdge_out_ne_bus s hdrivers, hlatched⟩
  · obtain ⟨hstate, hdrivers, hcleared, hlatched⟩ := ownEdge_of_take hfence htake
    exact ⟨hstate, hdrivers, hcleared, hlatched,
      hout.trans (State.selectedOutput_of_driving _ (by rw [hstate]; nofun) hdrivers)⟩
  · obtain ⟨hstate, hdrivers, hcleared, hlatched⟩ :=
      ownEdge_of_release (hahead.mp hboundary) hfence htake hyielding hrelease
    exact ⟨hstate, hdrivers, hcleared, hown, ownEdge_out_ne_bus s hdrivers, hlatched⟩
  · exact ownEdge_of_unread (hahead.mp hboundary) hfence htake hyielding hrelease (s.win.yieldUnread_iff.mpr hunread)
  · refine ownEdge_of_waiting_yield (hahead.mp hboundary) hfence htake hyielding hrelease
      (Bool.eq_false_iff.mpr fun hunread => ?_)
    obtain hnone | ⟨hunresolved, b, hb, hbegan⟩ := s.win.yieldUnread_iff.mp hunread
    · simp [ha] at hnone
    · obtain rfl : a = b := Option.some.inj (ha.symm.trans hb)
      exact hlater.elim (· hbegan) fun hresolved => by simp [hunresolved] at hresolved
  · intro looped good
    obtain ⟨hstate, hlatched, hminute, hended⟩ :=
      ownEdge_of_proof_ending (hahead.mp hboundary) hfence htake hproving hrunning
    have hgood : proofGood s.edgeCounted.key.proof s.curRec = true ↔ good := by
      have hheld : s.edgeCounted.key.proof.refHeld = s.key.proof.refHeld := by
        obtain ⟨_, _, hproof⟩ := s.edgeCounted_proof
        rw [hproof]
      have hedge : (ownEdge s).trk.lastEdge = s.trk.nextEdge := by rw [ownEdge_trk]; rfl
      rw [proofGood_iff, State.edgeCounted_missed hrunning hm hlength, hheld, ← hedge]
      exact and_congr_right fun _ => ⟨fun ⟨⟨hmissed, hshown⟩, h⟩ => ⟨hmissed, h, hshown⟩,
        fun ⟨hmissed, h, hshown⟩ => ⟨⟨hmissed, hshown⟩, h⟩⟩
    refine ⟨fun hsucceeds => ?_, fun hfails => ?_, hminute, hended⟩
    · rw [if_pos (hgood.mpr hsucceeds)] at hstate hlatched
      exact ⟨hstate, hlatched⟩
    · rw [if_neg (mt hgood.mp hfails)] at hstate hlatched
      exact ⟨hstate, hlatched⟩
  · exact ownEdge_of_proof_within (hwithin hboundary) hrunning
  · exact ownEdge_of_proof_beginning (hahead.mp hboundary) hidle hdesignated
  · exact ownEdge_keeps_keyState hfence htake (hkept.imp_left hwithin)
  · obtain ⟨-, hdrivers⟩ := ownEdge_of_no_yield hfence htake fun _ hyielding => by
      rw [hyielding] at hkept
      exact hkept.elim nofun nofun
    exact hdrivers
  · rw [hout]
    exact State.selectedOutput_eq_loop_iff _
  · rw [hout, State.selectedOutput_eq_bus_iff, State.keyingConditions_iff]
end

section
/-! SUPPORT. The bid bar and the listening count through an own edge that cuts no window (R114, R121). -/

namespace Sys2Proof.Machine

/-- The bid bar, the listening count, and whether the minute in progress is listened to. -/
def KeyCtl.listeningItems (k : KeyCtl) : Bool × Nat × Bool := (k.bidBar, k.listening, k.listenOpen)

theorem keyEdge_listeningItems (boundary : Bool) (s : State) :
    (keyEdge boundary s).key.listeningItems = s.key.listeningItems := by
  unfold keyEdge
  dsimp only
  repeat' split
  all_goals rfl

theorem ownEdge_listeningItems (s : State) : (ownEdge s).key.listeningItems = s.edgeTurned.key.listeningItems := by
  obtain ⟨p, hkey, -⟩ := ownEdge_key s
  rw [hkey]
  exact keyEdge_listeningItems _ _

theorem KeyCtl.judged_listeningItems (record : Option ConcordRecord) (k : KeyCtl) :
    (k.judged record).listeningItems = k.listeningItems := by
  unfold KeyCtl.judged
  split <;> rfl

theorem KeyCtl.listened_listeningItems (ref : RefState) (k : KeyCtl) :
    (k.listened ref).listeningItems =
      (false, if k.listenOpen then min 2 (k.listening + 1) else k.listening, true) := rfl

theorem KeyCtl.proofBegun_listeningItems (k : KeyCtl) : k.proofBegun.listeningItems = k.listeningItems := by
  rw [KeyCtl.proofBegun_eq]
  rfl

section Uncut
variable {s : State} (hphase : s.win.phase ≠ .opened)
include hphase

theorem State.edgeCounted_listeningItems : s.edgeCounted.key.listeningItems = s.key.listeningItems := by
  obtain ⟨m, b, hkey, -⟩ := secondEnds_key s.windowRead s.trk.nextEdge (endWindow s)
  rw [s.edgeCounted_key, hkey, (endWindow_key s).1 hphase]
  rfl

theorem ownEdge_listeningItems_of_not_boundary (h : s.trk.boundaryNext = false) :
    (ownEdge s).key.listeningItems = s.key.listeningItems := by
  rw [ownEdge_listeningItems, State.edgeTurned_of_not_boundary h, s.edgeCounted_listeningItems hphase]

theorem ownEdge_listeningItems_of_boundary (h : s.trk.boundaryNext = true) :
    (ownEdge s).key.listeningItems =
      (false, if s.key.listenOpen then min 2 (s.key.listening + 1) else s.key.listening, true) := by
  have hjudged : (s.edgeCounted.key.judged s.curRec).listeningItems = s.key.listeningItems :=
    (KeyCtl.judged_listeningItems _ _).trans (s.edgeCounted_listeningItems hphase)
  simp only [KeyCtl.listeningItems, Prod.mk.injEq] at hjudged
  obtain ⟨-, hlistening, hopen⟩ := hjudged
  rw [ownEdge_listeningItems, State.edgeTurned_of_boundary h, KeyCtl.proofBegun_listeningItems,
    KeyCtl.listened_listeningItems, hlistening, hopen]

end Uncut

/-- At a boundary a DORMANT unit leaves its state when it has listened to two whole minutes and its reference is LOCKED (R121). -/
theorem ownEdge_keyState_of_dormant {s : State} (h : s.trk.boundaryNext = true) (hfence : s.key.pendingFence = false)
    (htake : s.key.pendingTake = none) (hdormant : s.key.state = .dormant) :
    (ownEdge s).key.state =
      if (ownEdge s).key.listening = 2 ∧ (ownEdge s).trk.refState = .locked then .standby else .dormant := by
  obtain ⟨hstate, -⟩ := ownEdge_of_no_yield hfence htake fun _ => by rw [hdormant]; nofun
  have hitems := ownEdge_listeningItems s
  simp only [KeyCtl.listeningItems, Prod.mk.injEq] at hitems
  obtain ⟨-, hlistening, -⟩ := hitems
  have hcounted : s.edgeCounted.key.state = .dormant := by
    rw [s.edgeCounted_keyState, State.yieldEnded_of_not_yielding (by rw [hdormant]; nofun), hdormant]
  have hturned : s.edgeTurned.key = (s.edgeCounted.key.listened s.trk.atEdge.refState).proofBegun := by
    rw [State.edgeTurned_of_boundary h, KeyCtl.judged_of_idle fun hproving => by
      rw [hcounted] at hproving
      exact nomatch hproving.2]
  rw [hstate, hlistening, ownEdge_trk, hturned, KeyCtl.proofBegun_eq]
  dsimp only
  rw [KeyCtl.listened_state, hcounted]
  simp

end Sys2Proof.Machine

open Sys2Proof Sys2Proof.Machine

/-- Settles O21: the boundary writes the three items and the key state's own part leaves them; a DORMANT unit leaves its state
only there. -/
theorem boundaryClearsTheBidBarAndCountsListening : Obligations.BoundaryClearsTheBidBarAndCountsListening := by
  intro s hrun hphase
  have hahead : s.boundaryAhead ↔ s.trk.boundaryNext = true := State.boundaryAhead_iff hrun
  refine ⟨ownEdge s, exec_ownEdge_of_running s hrun, fun hboundary => ?_, fun hnot => ?_⟩
  · have hitems := ownEdge_listeningItems_of_boundary hphase (hahead.mp hboundary)
    simp only [KeyCtl.listeningItems, Prod.mk.injEq] at hitems
    obtain ⟨hbar, hlistening, hopen⟩ := hitems
    exact ⟨hbar, hopen, hlistening, fun hdormant hfence htake =>
      ownEdge_keyState_of_dormant (hahead.mp hboundary) hfence htake hdormant⟩
  · have hwithin : s.trk.boundaryNext = false := Bool.eq_false_iff.mpr (mt hahead.mpr hnot)
    have hitems := ownEdge_listeningItems_of_not_boundary hphase hwithin
    simp only [KeyCtl.listeningItems, Prod.mk.injEq] at hitems
    obtain ⟨hbar, hlistening, hopen⟩ := hitems
    refine ⟨hbar, hlistening, hopen, fun hdormant hfence htake => ?_⟩
    exact (ownEdge_keeps_keyState hfence htake (.inl hwithin)).1.trans hdormant
end

section
/-! SUPPORT. The KYL readback (R113), a change of the keying bus by other units (R127), and the vacancy and the bid (R107, R108). -/

namespace Sys2Proof.Machine

theorem kylReadback_of_clash {s : State} (htick : 0 < s.keying.nextTick)
    (hholder : s.key.state = .holding ∨ s.key.state = .yielding) (hown : s.keying.own.kyl = false)
    (hpeer : s.keying.peer.kyl = true) :
    kylReadback s = s.collide (s.tickInstant (s.keying.nextTick - 1) + ms 25) :=
  if_pos ⟨htick, s.key.state.isHolder_iff.mpr hholder, by simp [busLines, hpeer], by simp [hown]⟩

/-- Only another unit's KYL is read back where the own pattern has it released. -/
theorem kylReadback_of_no_clash {s : State}
    (h : ¬(0 < s.keying.nextTick ∧ (s.key.state = .holding ∨ s.key.state = .yielding) ∧ s.keying.own.kyl = false
      ∧ s.keying.peer.kyl = true)) : kylReadback s = s := by
  refine if_neg fun ⟨htick, hholder, hread, hreleased⟩ => h ?_
  have hown : s.keying.own.kyl = false := by simpa using hreleased
  exact ⟨htick, s.key.state.isHolder_iff.mp hholder, hown, by simpa [busLines, hown] using hread⟩

theorem busChange_of_running (t : Instant) (peer : KeyingLines) {s : State} (h : s.running = true) :
    busChange t peer s = State.recordBus t { s with keying := { s.keying with peer := peer } } := if_pos h

/-! ### Vacancy and bid -/

theorem vacancySeen_iff (w : Window) (beaconAbsent : Bool) :
    vacancySeen w beaconAbsent = true ↔
      (w.hold = 0 ∧ w.yieldSet = true) ∨ (w.hold = 0 ∧ beaconAbsent = true) ∨ w.shadow = .unanimous := by
  simp only [vacancySeen, Bool.or_eq_true, Bool.and_eq_true, beq_iff_eq, or_assoc]

theorem State.eligible_iff (s : State) :
    s.eligible = true ↔
      s.key.state = .standby ∧ s.key.bidBar = false ∧ s.win.alignment = some .aligned ∧ s.key.pendingTake = none
        ∧ ∃ r, s.comingRecord = some r ∧ r.outcome = .concord ∧ r.role = some .assent := by
  simp only [State.eligible, Bool.and_eq_true, beq_iff_eq, Bool.not_eq_true', Option.isNone_iff_eq_none, assents_iff,
    and_assoc]

theorem vacancy_of_after {s : State} (h : s.afterSample 20) (hopen : s.win.vacancyTaken = false) :
    vacancy s =
      { s with
        win :=
          { s.win with
            vacancyTaken := true
            vacancy := vacancySeen s.win s.key.beaconAbsent
            bidder := vacancySeen s.win s.key.beaconAbsent && s.eligible } } := by
  obtain ⟨-, hphase, halignment, hsampled, hcell⟩ := h
  exact if_pos ⟨Window.live_of hphase halignment, hcell, hsampled, by simp [hopen]⟩

end Sys2Proof.Machine

open Sys2Proof Sys2Proof.Machine

/-- Settles O30: a clash is a collision, and each of the other two rows writes its own part. -/
theorem busReadbackAndCuePulse : Obligations.BusReadbackAndCuePulse := by
  refine ⟨fun s hrun => ?_, fun t peer s hrun => ?_, fun s hrun => next_whenRunning _ hrun⟩
  · intro clash
    refine ⟨fun ⟨htick, hholder, hown, hpeer⟩ => ⟨_, next_whenRunning _ hrun, ?_⟩, fun hnot => ?_⟩
    · rw [kylReadback_of_clash htick hholder hown hpeer]
      exact s.collide_collidesTo _
    · exact (next_whenRunning _ hrun).trans (congrArg _ (kylReadback_of_no_clash hnot))
  · exact congrArg Host.Outcome.next (busChange_of_running t peer hrun)

/-- Settles O38: a bid is a vacancy seen by a unit that is eligible. -/
theorem vacancyAndBid : Obligations.VacancyAndBid := by
  intro s h hopen
  refine ⟨_, _, (next_whenRunning _ h.1).trans (congrArg _ (vacancy_of_after h hopen)), vacancySeen_iff _ _, ?_⟩
  rw [Bool.and_eq_true, State.eligible_iff]
  rfl
end

section
/-! SUPPORT. The BIDDING cell, which resolves a yield (R112), and the BIDVALUE field (R87, R109, R110). -/

namespace Sys2Proof.Machine

/-! ### The BIDDING cell -/

/-- The BIDDING cell as it is read, before a yield is resolved by it. -/
def State.biddingRead (o : OthersDrive) (s : State) : State :=
  { s with win := { s.win with sampled := true, bidding := s.win.cco o } }

theorem biddingSample_of_before {s : State} (h : s.beforeSample 61) (o : OthersDrive) :
    biddingSample o s = resolveYield (s.win.cco o) (s.biddingRead o) :=
  if_pos (s.awaits_of_beforeSample h (by decide) (by decide))

section Resolved
variable {s : State}

theorem resolveYield_of_resolving {bidding : Bool} (hlast : s.lastSecondWindow = true)
    (hbegan : s.win.atStart.map WindowStart.key = some .yielding) (hyielding : s.key.state = .yielding) :
    resolveYield bidding s =
      if bidding then
        { s with win := { s.win with yieldResolved := true }, key := { s.key with pendingRelease := true } }
      else
        { s with win := { s.win with yieldResolved := true }, key := { s.key with state := .holding } }.raise
          .yieldCancelled := if_pos ⟨hlast, hbegan, hyielding⟩

theorem resolveYield_of_other {bidding : Bool}
    (h : ¬(s.lastSecondWindow = true ∧ s.win.atStart.map WindowStart.key = some .yielding ∧ s.key.state = .yielding)) :
    resolveYield bidding s = s := if_neg h

end Resolved

/-! ### The BIDVALUE field -/

/-- The last cell of the field is the bid won by a unit that has not dropped out. -/
theorem bidvalueSample_of_before {n : Nat} {s : State} (h : s.beforeSample n) (hfirst : 62 ≤ n) (hlast : n ≤ 66)
    (o : OthersDrive) :
    bidvalueSample o s =
      { s with
        win :=
          { s.win with
            sampled := true
            bidRead := (s.win.bidRead <<< 1) ||| (if s.win.cca o then 1#5 else 0#5)
            bidDriving := stillDriving s.win.bidDriving s.win.pullCca (s.win.cca o) }
        key :=
          if n = 66 ∧ stillDriving s.win.bidDriving s.win.pullCca (s.win.cca o) = true then
            { s.key with pendingTake := some s.trk.nextCount.second }
          else s.key } := by
  have hawaits : s.win.awaits 62 66 = true := s.awaits_of_beforeSample h hfirst hlast
  obtain ⟨-, -, -, -, rfl⟩ := h
  rw [bidvalueSample, if_pos hawaits]
  dsimp only
  split <;> rfl

end Sys2Proof.Machine

open Sys2Proof Sys2Proof.Machine

/-- Settles O41: the yield that the window began with is resolved by the reading, and the bid is won in the field's last cell. -/
theorem biddingAndBidValue : Obligations.BiddingAndBidValue := by
  refine ⟨fun o s h => ?_, fun n o s hfirst hlast h => ?_⟩
  · intro s1 resolves
    have hread : exec (.biddingSample o) s = .next (resolveYield (s.win.cco o) s1) :=
      (next_whenRunning _ h.1).trans (congrArg _ (biddingSample_of_before h o))
    rw [hread]
    refine ⟨fun ⟨hwindow, hbegan, hyielding⟩ hone => ?_, fun ⟨hwindow, hbegan, hyielding⟩ hzero => ?_, fun hnot => ?_⟩
    · rw [resolveYield_of_resolving (s := s1) hwindow hbegan hyielding, if_pos hone]
    · rw [resolveYield_of_resolving (s := s1) hwindow hbegan hyielding, if_neg (by rw [hzero]; decide)]
    · rw [resolveYield_of_other (s := s1) hnot]
  · exact ⟨_, (next_whenRunning _ h.1).trans (congrArg _ (bidvalueSample_of_before h hfirst hlast o)),
      stillDriving_iff _ _ _⟩
end

section
/-! SUPPORT. The ticks of the keying generator (R1, R2, R124, R125): what a tick puts on the lines, and what its strobes' end leaves. -/

namespace Sys2Proof.Machine

theorem State.driveBus_same {t : Instant} {l : KeyingLines} {s : State} (h : s.keying.own = l) : s.driveBus t l = s :=
  if_pos h

theorem State.driveLoop_same {t : Instant} {l : KeyingLines} {s : State} (h : s.keying.loop = l) : s.driveLoop t l = s :=
  if_pos h

/-- Lines put on the selected output leave each of the two outputs that is not selected as it is (R125). -/
theorem State.putLines_eq (t : Instant) (l : KeyingLines) (s : State) :
    s.putLines t l =
      (s.driveBus t (if s.keying.out = .bus then l else s.keying.own)).driveLoop t
        (if s.keying.out = .loop then l else s.keying.loop) := by
  cases hout : s.keying.out <;> simp [State.putLines, hout, State.driveBus_same, State.driveLoop_same]

theorem tickStart_of_more {s : State} (h : s.keying.nextTick < 20) :
    tickStart s =
      { s.putLines (s.tickInstant s.keying.nextTick) (s.patternAt s.keying.nextTick) with
        keying :=
          { (s.putLines (s.tickInstant s.keying.nextTick) (s.patternAt s.keying.nextTick)).keying with
            nextTick := s.keying.nextTick + 1 } } := if_pos h

/-- The strobes of tick `n` end 10 ms into it (R2). -/
theorem strobeEnd_of_tick {n : Nat} {s : State} (h : s.keying.nextTick = n + 1) :
    strobeEnd s =
      (s.driveBus (s.tickInstant n + ms 10) (strobesReleased s.keying.own)).driveLoop (s.tickInstant n + ms 10)
        (strobesReleased s.keying.loop) := by
  unfold strobeEnd
  rw [h]
  exact if_pos n.succ_pos

end Sys2Proof.Machine

open Sys2Proof Sys2Proof.Machine

/-- Settles O24: a tick and the end of its strobes each drive the bus and then the loop, and a line that is driven as it was has no
change for the decoder. -/
theorem ticksPutThePatternOnTheSelectedOutput : Obligations.TicksPutThePatternOnTheSelectedOutput := by
  intro s hrun becomes
  refine ⟨fun hmore => (next_whenRunning _ hrun).trans (congrArg _ ?_),
    fun n hn => (next_whenRunning _ hrun).trans (congrArg _ ?_)⟩
  · rw [tickStart_of_more hmore, State.putLines_eq, State.driveLoop_eq, State.driveBus_eq]
    rfl
  · rw [strobeEnd_of_tick hn, State.driveLoop_eq, State.driveBus_eq, ← hn]
    rfl
end

section
/-! SUPPORT. What the decoder sees of a line in the span of a second (R127): the stretches in which the line is asserted, the two
parts of the filter on KYL, and the classes of dips and strobes (R128, R129). -/

namespace Sys2Proof.Machine

/-! ### Bridging -/

/-- The instant lies in one of the intervals. -/
def inSome (ivs : List (Nat × Nat)) (t : Nat) : Prop := ∃ i ∈ ivs, i.1 ≤ t ∧ t < i.2

theorem inSome_cons {i : Nat × Nat} {l : List (Nat × Nat)} {t : Nat} :
    inSome (i :: l) t ↔ (i.1 ≤ t ∧ t < i.2) ∨ inSome l t := by
  simp [inSome]

/-- The instant lies between two of the intervals that are less than `gap` apart. -/
def inGap (gap : Nat) (ivs : List (Nat × Nat)) (t : Nat) : Prop :=
  ∃ i ∈ ivs, ∃ j ∈ ivs, i.2 ≤ t ∧ t < j.1 ∧ j.1 < i.2 + gap

/-- Intervals that are not empty, in order of instant. -/
structure Ordered (ivs : List (Nat × Nat)) : Prop where
  nonempty : ∀ i ∈ ivs, i.1 < i.2
  order : ivs.Pairwise fun i j => i.2 ≤ j.1

/-- The intervals of `m` are those of `l` with every gap shorter than `gap` bridged (R127). -/
structure Bridged (gap : Nat) (l m : List (Nat × Nat)) : Prop where
  nonempty : ∀ i ∈ m, i.1 < i.2
  apart : m.Pairwise fun i j => i.2 + gap ≤ j.1
  covers : ∀ t, inSome m t ↔ inSome l t ∨ inGap gap l t

theorem bridgeBelow_cons_last {gap : Nat} {i : Nat × Nat} {l : List (Nat × Nat)} (h : bridgeBelow gap l = []) :
    bridgeBelow gap (i :: l) = [i] := by
  unfold bridgeBelow at h ⊢
  rw [List.foldr_cons, h]

theorem bridgeBelow_cons_near {gap : Nat} {i next : Nat × Nat} {l rest : List (Nat × Nat)}
    (h : bridgeBelow gap l = next :: rest) (hnear : next.1 < i.2 + gap) :
    bridgeBelow gap (i :: l) = (i.1, next.2) :: rest := by
  unfold bridgeBelow at h ⊢
  rw [List.foldr_cons, h]
  exact if_pos hnear

theorem bridgeBelow_cons_far {gap : Nat} {i next : Nat × Nat} {l rest : List (Nat × Nat)}
    (h : bridgeBelow gap l = next :: rest) (hfar : ¬next.1 < i.2 + gap) :
    bridgeBelow gap (i :: l) = i :: next :: rest := by
  unfold bridgeBelow at h ⊢
  rw [List.foldr_cons, h]
  exact if_neg hfar

/-- Bridging leaves where the first interval begins. -/
theorem bridgeBelow_starts (gap : Nat) (l : List (Nat × Nat)) :
    (bridgeBelow gap l).head?.map Prod.fst = l.head?.map Prod.fst := by
  cases l with
  | nil => rfl
  | cons i l =>
    cases h : bridgeBelow gap l with
    | nil =>
      rw [bridgeBelow_cons_last h]
      rfl
    | cons next rest =>
      by_cases hnear : next.1 < i.2 + gap
      · rw [bridgeBelow_cons_near h hnear]
        rfl
      · rw [bridgeBelow_cons_far h hnear]
        rfl

/-- A gap of intervals with one more before them is a gap of theirs or one that begins at the end of that one. -/
theorem inGap_cons {gap t : Nat} {i : Nat × Nat} {l : List (Nat × Nat)} (h : Ordered (i :: l)) :
    inGap gap (i :: l) t ↔ inGap gap l t ∨ ∃ j ∈ l, i.2 ≤ t ∧ t < j.1 ∧ j.1 < i.2 + gap := by
  have hi : i.1 < i.2 := h.nonempty i List.mem_cons_self
  have hafter : ∀ j ∈ l, i.2 ≤ j.1 := (List.pairwise_cons.mp h.order).1
  constructor
  · rintro ⟨x, hx, y, hy, hxt, hty, hnear⟩
    have hfull := h.nonempty x hx
    obtain rfl | hxl := List.mem_cons.mp hx <;> obtain rfl | hyl := List.mem_cons.mp hy
    · omega
    · exact .inr ⟨y, hyl, hxt, hty, hnear⟩
    · have := hafter x hxl
      omega
    · exact .inl ⟨x, hxl, y, hyl, hxt, hty, hnear⟩
  · rintro (⟨x, hx, y, hy, hgap⟩ | ⟨j, hj, hgap⟩)
    · exact ⟨x, List.mem_cons_of_mem _ hx, y, List.mem_cons_of_mem _ hy, hgap⟩
    · exact ⟨i, List.mem_cons_self, j, List.mem_cons_of_mem _ hj, hgap⟩

/-- Past the start of the first interval, an instant less than `gap` before another start is covered or in a gap. -/
theorem inSome_or_inGap_of_near {gap t : Nat} {first j : Nat × Nat} {l : List (Nat × Nat)} (hfirst : first ∈ l) (hj : j ∈ l)
    (hstart : first.1 ≤ t) (hbefore : t < j.1) (hnear : j.1 < first.2 + gap) : inSome l t ∨ inGap gap l t := by
  by_cases hin : t < first.2
  · exact .inl ⟨first, hfirst, hstart, hin⟩
  · exact .inr ⟨first, hfirst, j, hj, Nat.not_lt.mp hin, hbefore, hnear⟩

section Cons
variable {gap : Nat} {i first next : Nat × Nat} {tail rest : List (Nat × Nat)}

theorem Ordered.of_cons (h : Ordered (i :: tail)) : Ordered tail :=
  ⟨fun j hj => h.nonempty j (List.mem_cons_of_mem _ hj), (List.pairwise_cons.mp h.order).2⟩

/-- The first of ordered intervals begins first. -/
theorem Ordered.first_le (h : Ordered (first :: tail)) : ∀ j ∈ first :: tail, first.1 ≤ j.1 := by
  intro j hj
  have hfirst := h.nonempty first List.mem_cons_self
  obtain rfl | hj := List.mem_cons.mp hj
  · exact Nat.le_refl _
  · have := (List.pairwise_cons.mp h.order).1 j hj
    omega

/-- An interval less than `gap` before the rest is joined with the first of it. -/
theorem Bridged.cons_near (h : Ordered (i :: first :: tail)) (hrest : Bridged gap (first :: tail) (next :: rest))
    (hstart : next.1 = first.1) (hnear : next.1 < i.2 + gap) :
    Bridged gap (i :: first :: tail) ((i.1, next.2) :: rest) := by
  have hi : i.1 < i.2 := h.nonempty i List.mem_cons_self
  have hfirst : first ∈ first :: tail := List.mem_cons_self
  have hfull : first.1 < first.2 := h.of_cons.nonempty first hfirst
  have hafter : i.2 ≤ first.1 := (List.pairwise_cons.mp h.order).1 first hfirst
  have hnext : next.1 < next.2 := hrest.nonempty next List.mem_cons_self
  refine ⟨List.forall_mem_cons.mpr ⟨show i.1 < next.2 by omega, fun j hj => ?_⟩,
    List.pairwise_cons.mpr (List.pairwise_cons.mp hrest.apart), fun t => ?_⟩
  · exact hrest.nonempty j (List.mem_cons_of_mem _ hj)
  have hcovers := hrest.covers t
  rw [inSome_cons] at hcovers
  rw [inSome_cons, inGap_cons h, inSome_cons (i := i)]
  have hwiden : next.1 ≤ t ∧ t < next.2 ∨ inSome rest t → i.1 ≤ t ∧ t < next.2 ∨ inSome rest t :=
    Or.imp_left fun hin => ⟨by omega, hin.2⟩
  constructor
  · rintro (⟨hit, htn⟩ | hin)
    · by_cases hown : t < i.2
      · exact .inl (.inl ⟨hit, hown⟩)
      by_cases hbetween : t < next.1
      · exact .inr (.inr ⟨first, hfirst, by omega, by omega, by omega⟩)
      · exact (hcovers.mp (.inl ⟨by omega, htn⟩)).imp .inr .inl
    · exact (hcovers.mp (.inr hin)).imp .inr .inl
  · rintro ((⟨hit, hti⟩ | hin) | hin | ⟨j, hj, hij, htj, hclose⟩)
    · exact .inl ⟨hit, show t < next.2 by omega⟩
    · exact hwiden (hcovers.mpr (.inl hin))
    · exact hwiden (hcovers.mpr (.inr hin))
    · by_cases hbetween : t < next.1
      · exact .inl ⟨show i.1 ≤ t by omega, show t < next.2 by omega⟩
      · exact hwiden (hcovers.mpr (inSome_or_inGap_of_near hfirst hj (by omega) htj (by omega)))

/-- An interval at least `gap` before the rest stays apart from it. -/
theorem Bridged.cons_far (h : Ordered (i :: first :: tail)) (hrest : Bridged gap (first :: tail) (next :: rest))
    (hstart : next.1 = first.1) (hfar : ¬next.1 < i.2 + gap) :
    Bridged gap (i :: first :: tail) (i :: next :: rest) := by
  refine ⟨List.forall_mem_cons.mpr ⟨h.nonempty i List.mem_cons_self, hrest.nonempty⟩,
    List.pairwise_cons.mpr ⟨fun j hj => ?_, hrest.apart⟩, fun t => ?_⟩
  · have hnext : next.1 < next.2 := hrest.nonempty next List.mem_cons_self
    obtain rfl | hj := List.mem_cons.mp hj
    · omega
    · have := (List.pairwise_cons.mp hrest.apart).1 j hj
      omega
  · have hnone : ¬∃ j ∈ first :: tail, i.2 ≤ t ∧ t < j.1 ∧ j.1 < i.2 + gap := by
      rintro ⟨j, hj, -, -, hclose⟩
      have := h.of_cons.first_le j hj
      omega
    rw [inSome_cons, inGap_cons h, inSome_cons (i := i), hrest.covers t, or_iff_left hnone, or_assoc]

end Cons

theorem bridgeBelow_bridged (gap : Nat) {l : List (Nat × Nat)} (h : Ordered l) : Bridged gap l (bridgeBelow gap l) := by
  induction l with
  | nil => exact ⟨nofun, .nil, fun t => by simp [bridgeBelow, inSome, inGap]⟩
  | cons i l ih =>
    have hstarts := bridgeBelow_starts gap l
    have hrest := ih h.of_cons
    cases l with
    | nil => exact ⟨h.nonempty, List.pairwise_singleton _ _, fun t => by rw [inGap_cons h]; simp [bridgeBelow, inSome, inGap]⟩
    | cons first tail =>
      cases hm : bridgeBelow gap (first :: tail) with
      | nil => simp [hm] at hstarts
      | cons next rest =>
        rw [hm] at hrest hstarts
        have hstart : next.1 = first.1 := by simpa using hstarts
        by_cases hnear : next.1 < i.2 + gap
        · exact bridgeBelow_cons_near hm hnear ▸ hrest.cons_near h hstart hnear
        · exact bridgeBelow_cons_far hm hnear ▸ hrest.cons_far h hstart hnear

/-! ### The level of a line, and the stretches in which it is asserted -/

/-- The lines at an instant: those of the latest change up to then, and `base` before the first. -/
def linesAt (base : KeyingLines) (trace : List LineSample) (t : Nat) : KeyingLines :=
  (((trace.filter fun x => decide (x.instant ≤ t)).getLast?).map LineSample.lines).getD base

theorem linesAt_cons_of_le {base : KeyingLines} {x : LineSample} {trace : List LineSample} {t : Nat} (h : x.instant ≤ t) :
    linesAt base (x :: trace) t = linesAt x.lines trace t := by
  unfold linesAt
  rw [List.filter_cons_of_pos (by simpa using h), List.getLast?_cons]
  cases (trace.filter fun x => decide (x.instant ≤ t)).getLast? <;> rfl

theorem linesAt_of_later {base : KeyingLines} {trace : List LineSample} {t : Nat} (h : ∀ x ∈ trace, t < x.instant) :
    linesAt base trace t = base := by
  have hnone : trace.filter (fun x => decide (x.instant ≤ t)) = [] :=
    List.filter_eq_nil_iff.mpr fun x hx => by have := h x hx; simpa
  rw [linesAt, hnone]
  rfl

section Asserted
variable {sel : KeyingLines → Bool} {a b : Nat}

theorem assertedFrom_nil (cur : Option Instant) : assertedFrom sel a b [] cur = (cur.map fun st => (st, b)).toList := by
  cases cur <;> rfl

section Cons
variable {x : LineSample} {trace : List LineSample}

theorem assertedFrom_beyond (h : b ≤ x.instant) (cur : Option Instant) :
    assertedFrom sel a b (x :: trace) cur = (cur.map fun st => (st, b)).toList := by
  cases cur <;> simp [assertedFrom, h]

theorem assertedFrom_begins (h : ¬b ≤ x.instant) (hx : sel x.lines = true) :
    assertedFrom sel a b (x :: trace) none = assertedFrom sel a b trace (some (max a x.instant)) := by
  simp [assertedFrom, h, hx]

theorem assertedFrom_ends (h : ¬b ≤ x.instant) (hx : sel x.lines = false) (st : Instant) :
    assertedFrom sel a b (x :: trace) (some st) = (st, max a x.instant) :: assertedFrom sel a b trace none := by
  simp [assertedFrom, h, hx]

theorem assertedFrom_goes_on {cur : Option Instant} (h : ¬b ≤ x.instant) (hx : sel x.lines = cur.isSome) :
    assertedFrom sel a b (x :: trace) cur = assertedFrom sel a b trace cur := by
  cases cur <;> simp [assertedFrom, h, (by simpa using hx : sel x.lines = _)]

end Cons

/-- The assertion in progress begins in the span and before every change that is left. -/
def BeginsBefore (a : Nat) (trace : List LineSample) (cur : Option Instant) : Prop :=
  ∀ st ∈ cur, a ≤ st ∧ ∀ x ∈ trace, st ≤ max a x.instant

theorem BeginsBefore.of_cons {trace : List LineSample} {x : LineSample} {cur : Option Instant}
    (h : BeginsBefore a (x :: trace) cur) : BeginsBefore a trace cur :=
  fun st hst => ⟨(h st hst).1, fun y hy => (h st hst).2 y (List.mem_cons_of_mem _ hy)⟩

theorem BeginsBefore.of_change {trace : List LineSample} {x : LineSample}
    (h : (x :: trace).Pairwise fun x y => x.instant ≤ y.instant) : BeginsBefore a trace (some (max a x.instant)) := by
  rintro _ ⟨⟩
  refine ⟨Nat.le_max_left _ _, fun y hy => Nat.max_le.mpr ⟨Nat.le_max_left _ _, ?_⟩⟩
  exact Nat.le_trans ((List.pairwise_cons.mp h).1 y hy) (Nat.le_max_right _ _)

theorem BeginsBefore.of_none {trace : List LineSample} : BeginsBefore a trace none := nofun

/-- Within the span the stretches are the instants at which the line is asserted, from the start of the assertion in progress. -/
theorem inSome_assertedFrom {base : KeyingLines} {trace : List LineSample} {cur : Option Instant} {t : Nat}
    (hsorted : trace.Pairwise fun x y => x.instant ≤ y.instant) (hbase : sel base = cur.isSome)
    (hcur : BeginsBefore a trace cur) (hat : a ≤ t) (htb : t < b) :
    inSome (assertedFrom sel a b trace cur) t ↔ (∀ st ∈ cur, st ≤ t) ∧ sel (linesAt base trace t) = true := by
  have hopen (cur : Option Instant) :
      inSome ((cur.map fun st => (st, b)).toList) t ↔ (∀ st ∈ cur, st ≤ t) ∧ cur.isSome = true := by
    cases cur <;> simp [inSome, htb]
  have hnone : ∀ st ∈ (none : Option Instant), st ≤ t := nofun
  have hsome (y : Instant) : (∀ st ∈ some y, st ≤ t) ↔ y ≤ t := ⟨fun h => h y rfl, by rintro h _ ⟨⟩; exact h⟩
  induction trace generalizing base cur with
  | nil => rw [assertedFrom_nil, hopen, ← hbase]; rfl
  | cons x trace ih =>
    obtain ⟨hlater, hrest⟩ := List.pairwise_cons.mp hsorted
    have hstays (h : ¬x.instant ≤ t) : linesAt base (x :: trace) t = base ∧ linesAt x.lines trace t = x.lines := by
      have hbefore : ∀ y ∈ x :: trace, t < y.instant :=
        List.forall_mem_cons.mpr ⟨Nat.not_le.mp h, fun y hy => Nat.lt_of_lt_of_le (Nat.not_le.mp h) (hlater y hy)⟩
      exact ⟨linesAt_of_later hbefore, linesAt_of_later (List.forall_mem_cons.mp hbefore).2⟩
    have hfrom : max a x.instant ≤ t ↔ x.instant ≤ t := Nat.max_le.trans (and_iff_right hat)
    by_cases hbeyond : b ≤ x.instant
    · rw [assertedFrom_beyond hbeyond, hopen, (hstays (Nat.not_le.mpr (Nat.lt_of_lt_of_le htb hbeyond))).1, hbase]
    by_cases hsame : sel x.lines = cur.isSome
    · have hafter := ih hrest hsame hcur.of_cons
      rw [assertedFrom_goes_on hbeyond hsame]
      refine hafter.trans ?_
      by_cases hxt : x.instant ≤ t
      · rw [linesAt_cons_of_le hxt]
      · rw [(hstays hxt).1, (hstays hxt).2, hbase, hsame]
    cases cur with
    | none =>
      have hx : sel x.lines = true := by simpa using hsame
      have hafter := ih hrest (cur := some (max a x.instant)) hx (.of_change hsorted)
      rw [assertedFrom_begins hbeyond hx]
      refine hafter.trans ?_
      by_cases hxt : x.instant ≤ t
      · rw [hsome, hfrom, and_iff_right hxt, and_iff_right hnone, linesAt_cons_of_le hxt]
      · rw [hsome, hfrom, (hstays hxt).1, hbase]
        exact ⟨fun h => absurd h.1 hxt, fun h => nomatch h.2⟩
    | some st =>
      have hx : sel x.lines = false := by simpa using hsame
      have hstart := (hcur st rfl).2 x List.mem_cons_self
      have hafter := ih hrest (cur := none) hx .of_none
      rw [assertedFrom_ends hbeyond hx, inSome_cons]
      refine (or_congr_right hafter).trans ?_
      show (st ≤ t ∧ t < max a x.instant) ∨ _ ↔ _
      by_cases hxt : x.instant ≤ t
      · have hst : st ≤ t := Nat.le_trans hstart (Nat.max_le.mpr ⟨hat, hxt⟩)
        have hended : ¬(st ≤ t ∧ t < max a x.instant) := fun h => Nat.not_lt.mpr (hfrom.mpr hxt) h.2
        rw [or_iff_right hended, and_iff_right hnone, hsome, and_iff_right hst, linesAt_cons_of_le hxt]
      · have hgoes : t < max a x.instant := Nat.not_le.mp (mt hfrom.mp hxt)
        rw [(hstays hxt).1, (hstays hxt).2, hbase, hx, hsome, and_iff_left hgoes]
        exact ⟨fun h => ⟨h.resolve_right fun hoff => (nomatch hoff.2), rfl⟩, fun h => .inl h.1⟩

/-- The stretches lie in the span, and none begins before an instant that every change and the assertion in progress keep to. -/
theorem assertedFrom_bounds {lo : Nat} {trace : List LineSample} {cur : Option Instant} (hab : a ≤ b)
    (hsorted : trace.Pairwise fun x y => x.instant ≤ y.instant) (hlo : ∀ x ∈ trace, lo ≤ max a x.instant)
    (hcur : BeginsBefore a trace cur) (hin : ∀ st ∈ cur, lo ≤ st ∧ st ≤ b) :
    ∀ i ∈ assertedFrom sel a b trace cur, lo ≤ i.1 ∧ i.1 ≤ i.2 ∧ i.2 ≤ b := by
  have hopen {cur : Option Instant} (hin : ∀ st ∈ cur, lo ≤ st ∧ st ≤ b) :
      ∀ i ∈ (cur.map fun st => (st, b)).toList, lo ≤ i.1 ∧ i.1 ≤ i.2 ∧ i.2 ≤ b := by
    intro i hi
    obtain ⟨st, hst, rfl⟩ := Option.map_eq_some_iff.mp (Option.mem_toList.mp hi)
    exact ⟨(hin st hst).1, (hin st hst).2, Nat.le_refl b⟩
  induction trace generalizing cur with
  | nil => exact assertedFrom_nil (sel := sel) cur ▸ hopen hin
  | cons x trace ih =>
    obtain ⟨hx, hlater⟩ := List.forall_mem_cons.mp hlo
    have hrest := (List.pairwise_cons.mp hsorted).2
    by_cases hbeyond : b ≤ x.instant
    · exact assertedFrom_beyond (sel := sel) hbeyond cur ▸ hopen hin
    have hmax : max a x.instant ≤ b := Nat.max_le.mpr ⟨hab, Nat.le_of_not_le hbeyond⟩
    by_cases hsame : sel x.lines = cur.isSome
    · rw [assertedFrom_goes_on hbeyond hsame]
      exact ih hrest hlater hcur.of_cons hin
    cases cur with
    | none =>
      rw [assertedFrom_begins hbeyond (by simpa using hsame)]
      exact ih hrest hlater (.of_change hsorted) (by rintro _ ⟨⟩; exact ⟨hx, hmax⟩)
    | some st =>
      rw [assertedFrom_ends hbeyond (by simpa using hsame)]
      refine List.forall_mem_cons.mpr ⟨⟨(hin st rfl).1, (hcur st rfl).2 x List.mem_cons_self, hmax⟩, ?_⟩
      exact ih hrest hlater .of_none nofun

/-- The stretches are in order. -/
theorem assertedFrom_order {trace : List LineSample} {cur : Option Instant} (hab : a ≤ b)
    (hsorted : trace.Pairwise fun x y => x.instant ≤ y.instant) (hcur : BeginsBefore a trace cur) :
    (assertedFrom sel a b trace cur).Pairwise fun i j => i.2 ≤ j.1 := by
  have hopen (cur : Option Instant) : ((cur.map fun st => (st, b)).toList).Pairwise fun i j => i.2 ≤ j.1 := by
    cases cur <;> simp
  induction trace generalizing cur with
  | nil => exact assertedFrom_nil (sel := sel) cur ▸ hopen cur
  | cons x trace ih =>
    have hrest := (List.pairwise_cons.mp hsorted).2
    by_cases hbeyond : b ≤ x.instant
    · exact assertedFrom_beyond (sel := sel) hbeyond cur ▸ hopen cur
    by_cases hsame : sel x.lines = cur.isSome
    · rw [assertedFrom_goes_on hbeyond hsame]
      exact ih hrest hcur.of_cons
    cases cur with
    | none =>
      rw [assertedFrom_begins hbeyond (by simpa using hsame)]
      exact ih hrest (.of_change hsorted)
    | some st =>
      rw [assertedFrom_ends hbeyond (by simpa using hsame)]
      have hlo := (BeginsBefore.of_change (a := a) hsorted _ rfl).2
      exact List.pairwise_cons.mpr ⟨fun i hi => (assertedFrom_bounds hab hrest hlo .of_none nofun i hi).1, ih hrest .of_none⟩

theorem inSome_filter_nonempty {l : List (Nat × Nat)} {t : Nat} :
    inSome (l.filter fun i => decide (i.1 < i.2)) t ↔ inSome l t := by
  simp only [inSome, List.mem_filter, decide_eq_true_eq]
  exact ⟨fun ⟨i, ⟨hi, _⟩, hin⟩ => ⟨i, hi, hin⟩, fun ⟨i, hi, hin⟩ => ⟨i, ⟨hi, by omega⟩, hin⟩⟩

/-- What the decoder takes as the assertions of a line in a span: the longest stretches in which the line is asserted (R127). -/
theorem assertedIntervals_spec {base : KeyingLines} {trace : List LineSample} (hab : a ≤ b)
    (hsorted : trace.Pairwise fun x y => x.instant ≤ y.instant) :
    (∀ t, a ≤ t → t < b → (sel (linesAt base trace t) = true ↔ inSome (assertedIntervals sel a b base trace) t))
      ∧ (∀ i ∈ assertedIntervals sel a b base trace, a ≤ i.1 ∧ i.1 < i.2 ∧ i.2 ≤ b)
      ∧ (assertedIntervals sel a b base trace).Pairwise fun i j => i.2 < j.1 := by
  obtain ⟨cur, hcur⟩ : ∃ cur : Option Instant, cur = if sel base then some a else none := ⟨_, rfl⟩
  have hstart : ∀ st ∈ cur, st = a := by
    rw [hcur]
    split <;> simp
  have hbegins : BeginsBefore a trace cur := fun st hst => hstart st hst ▸ ⟨Nat.le_refl _, fun x _ => Nat.le_max_left _ _⟩
  have hbase : sel base = cur.isSome := by
    rw [hcur]
    cases sel base <;> rfl
  have hbounds := assertedFrom_bounds (sel := sel) hab hsorted (fun x _ => Nat.le_max_left a _) hbegins
    fun st hst => ⟨(hbegins st hst).1, Nat.le_trans (Nat.le_of_eq (hstart st hst)) hab⟩
  have hbridged : Bridged 1 ((assertedFrom sel a b trace cur).filter fun i => decide (i.1 < i.2))
      (assertedIntervals sel a b base trace) := by
    rw [assertedIntervals, ← hcur]
    exact bridgeBelow_bridged 1 ⟨fun i hi => by simpa using (List.mem_filter.mp hi).2,
      (assertedFrom_order hab hsorted hbegins).sublist List.filter_sublist⟩
  have hcovers (t : Nat) : inSome (assertedIntervals sel a b base trace) t ↔ inSome (assertedFrom sel a b trace cur) t := by
    rw [hbridged.covers, inSome_filter_nonempty, or_iff_left]
    rintro ⟨i, -, j, -, hit, htj, hclose⟩
    omega
  refine ⟨fun t hat htb => ?_, fun i hi => ?_, hbridged.apart⟩
  · rw [hcovers]
    refine Iff.trans ?_ (inSome_assertedFrom hsorted hbase hbegins hat htb).symm
    exact (and_iff_right fun st hst => Nat.le_trans (Nat.le_of_eq (hstart st hst)) hat).symm
  · have hfull := hbridged.nonempty i hi
    obtain ⟨j, hj, hji, -⟩ := (hcovers i.1).mp ⟨i, hi, Nat.le_refl _, hfull⟩
    obtain ⟨k, hk, -, hik⟩ := (hcovers (i.2 - 1)).mp ⟨i, hi, by omega, by omega⟩
    have := hbounds j hj
    have := hbounds k hk
    omega

end Asserted

/-! ### The dips -/

/-- Whichever part of the filter is done first, the other is done on what it leaves (log 7). -/
theorem seenDips_cases (ivs : List (Nat × Nat)) :
    seenDips ivs = dropShort (bridgeGaps ivs) ∨ seenDips ivs = bridgeGaps (dropShort ivs) := by
  unfold seenDips
  dsimp only
  split
  · exact .inl rfl
  · split
    · exact .inl rfl
    · exact .inr rfl

theorem Ordered.dropShort {ivs : List (Nat × Nat)} (h : Ordered ivs) : Ordered (dropShort ivs) :=
  ⟨fun i hi => h.nonempty i (List.mem_filter.mp hi).1, h.order.sublist List.filter_sublist⟩

theorem within_iff (d a b : Nat) : within d a b = true ↔ a ≤ b + d ∧ b ≤ a + d := by simp [within]

theorem dipLasts_iff (nominal : Nat) (iv : Nat × Nat) :
    dipLasts nominal iv = true ↔ iv.2 - iv.1 ≤ 1000 * nominal + 20000 ∧ 1000 * nominal ≤ iv.2 - iv.1 + 20000 :=
  within_iff _ _ _

section Classes
variable {edge a b : Nat}

theorem classifyDips_of_nominal (hedge : a ≤ edge + 10000 ∧ edge ≤ a + 10000) :
    classifyDips edge [(a, b)] =
      if dipLasts 150 (a, b) then .zero
      else if dipLasts 300 (a, b) then .one
      else if dipLasts 600 (a, b) then .mark
      else .unclear := if_pos ((within_iff _ _ _).mpr hedge)

theorem classifyDips_of_off_edge (hedge : ¬(a ≤ edge + 10000 ∧ edge ≤ a + 10000)) :
    classifyDips edge [(a, b)] = .unclear := if_neg (mt (within_iff _ _ _).mp hedge)

theorem classifyDips_of_other_length (h150 : ¬dipLasts 150 (a, b) = true) (h300 : ¬dipLasts 300 (a, b) = true)
    (h600 : ¬dipLasts 600 (a, b) = true) : classifyDips edge [(a, b)] = .unclear := by
  by_cases hedge : a ≤ edge + 10000 ∧ edge ≤ a + 10000
  · rw [classifyDips_of_nominal hedge, if_neg h150, if_neg h300, if_neg h600]
  · exact classifyDips_of_off_edge hedge

theorem classifyDips_pair (d e : Nat × Nat) :
    classifyDips edge [d, e] =
      if within (ms 10) d.1 edge && dipLasts 150 d && within (ms 20) e.1 (edge + ms 300) && dipLasts 150 e then .split
      else .unclear := rfl

theorem classifyDips_of_many {dips : List (Nat × Nat)} (h : 3 ≤ dips.length) : classifyDips edge dips = .unclear := by
  match dips, h with
  | _ :: _ :: _ :: _, _ => rfl

end Classes

/-! ### The strobes (R129) -/

theorem strobeEdges_eq (ivs : List (Nat × Nat)) :
    strobeEdges ivs = (ivs.filter fun i => decide (i.1 + 5000 ≤ i.2 ∧ i.2 ≤ i.1 + 20000)).map Prod.fst := by
  simp only [strobeEdges, Bool.decide_and]
  rfl

theorem strobeInCell_iff (edge i t : Nat) :
    strobeInCell edge i t = true ↔ t ≤ edge + 50000 * (13 + i) + 15000 ∧ edge + 50000 * (13 + i) ≤ t + 15000 :=
  within_iff _ _ _

theorem strobeInCell_eq (edge i : Nat) :
    strobeInCell edge i =
      fun t => decide (t ≤ edge + 50000 * (13 + i) + 15000 ∧ edge + 50000 * (13 + i) ≤ t + 15000) :=
  funext fun t => Bool.eq_iff_iff.mpr ((strobeInCell_iff edge i t).trans (decide_eq_true_iff).symm)

/-- The reading of a cell, by how many strobes of each line belong to it. -/
theorem cellReading_iff (edge i : Nat) (adv ret : List Nat) :
    let a := (adv.filter (strobeInCell edge i)).length
    let r := (ret.filter (strobeInCell edge i)).length
    (cellReading edge i adv ret = .hold ↔ a = 0 ∧ r = 0)
      ∧ (cellReading edge i adv ret = .advance ↔ a = 1 ∧ r = 0)
      ∧ (cellReading edge i adv ret = .retard ↔ a = 0 ∧ r = 1)
      ∧ (cellReading edge i adv ret = .double ↔ 1 < a ∨ 1 < r ∨ (1 ≤ a ∧ 1 ≤ r)) := by
  unfold cellReading
  generalize (adv.filter (strobeInCell edge i)).length = a
  generalize (ret.filter (strobeInCell edge i)).length = r
  match a, r with
  | 0, 0 | 1, 0 | 0, 1 | 0, _ + 2 | 1, _ + 1 | _ + 2, _ => simp

theorem hasPhaseCells_iff (second : Nat) : hasPhaseCells second = true ↔ 1 ≤ second ∧ second ≤ 56 := by
  simp [hasPhaseCells]

theorem hasLong_iff (ivs : List (Nat × Nat)) : hasLong ivs = true ↔ ∃ i ∈ ivs, i.1 + 20000 < i.2 := by
  simp only [hasLong, List.any_eq_true, decide_eq_true_eq]
  rfl

theorem strobeHasCell_eq_false_iff (second edge t : Nat) :
    (!strobeHasCell second edge t) = true ↔
      second = 0 ∨ 56 < second
        ∨ ∀ i < 7, ¬(t ≤ edge + 50000 * (13 + i) + 15000 ∧ edge + 50000 * (13 + i) ≤ t + 15000) := by
  have hphase : ¬hasPhaseCells second = true ↔ second = 0 ∨ 56 < second := by
    rw [hasPhaseCells_iff]
    omega
  rw [Bool.not_eq_true', ← Bool.not_eq_true, strobeHasCell, Bool.and_eq_true, Decidable.not_and_iff_not_or_not, hphase, or_assoc]
  simp only [List.any_eq_true, List.mem_range, strobeInCell_iff, not_exists, not_and]

end Sys2Proof.Machine

open Sys2Proof Sys2Proof.Machine

/-- Settles O28: the classes one by one, the assertions as the longest stretches of the span, the two orders of the filter, and the
strobes by the cells they belong to. -/
theorem dipsAndStrobesAreClassed : Obligations.DipsAndStrobesAreClassed := by
  refine ⟨fun edge a b c d hab hbc hcd => ?_, fun line edge base trace hsorted => ?_, fun asserted hfull hapart => ?_,
    fun second edge base trace => ?_⟩
  · intro onEdge lasts
    have h150 : dipLasts 150 (a, b) = true ↔ lasts a b 150000 := dipLasts_iff 150 (a, b)
    have h300 : dipLasts 300 (a, b) = true ↔ lasts a b 300000 := dipLasts_iff 300 (a, b)
    have h600 : dipLasts 600 (a, b) = true ↔ lasts a b 600000 := dipLasts_iff 600 (a, b)
    refine ⟨rfl, fun hedge h => ?_, fun hedge h => ?_, fun hedge h => ?_, fun hedge => classifyDips_of_off_edge hedge,
      fun hn150 hn300 hn600 => ?_, ?_, fun dips h => classifyDips_of_many h⟩
    · rw [classifyDips_of_nominal hedge, if_pos (h150.mpr h)]
    · have hn150 : ¬lasts a b 150000 := by omega
      rw [classifyDips_of_nominal hedge, if_neg (mt h150.mp hn150), if_pos (h300.mpr h)]
    · have hn150 : ¬lasts a b 150000 := by omega
      have hn300 : ¬lasts a b 300000 := by omega
      rw [classifyDips_of_nominal hedge, if_neg (mt h150.mp hn150), if_neg (mt h300.mp hn300), if_pos (h600.mpr h)]
    · exact classifyDips_of_other_length (mt h150.mp hn150) (mt h300.mp hn300) (mt h600.mp hn600)
    · intro split
      have hsplit : (within (ms 10) a edge && dipLasts 150 (a, b) && within (ms 20) c (edge + ms 300)
          && dipLasts 150 (c, d)) = true ↔ split := by
        simp only [Bool.and_eq_true, within_iff, dipLasts_iff, ms, split, onEdge, lasts]
        omega
      rw [classifyDips_pair]
      exact ⟨fun h => if_pos (hsplit.mpr h), fun h => if_neg (mt hsplit.mp h)⟩
  · have hspan : edge - 20000 ≤ edge + 980000 := by omega
    exact assertedIntervals_spec hspan hsorted
  · intro long bridged
    have hordered : Ordered asserted := ⟨hfull, hapart.imp fun h => Nat.le_of_lt h⟩
    have hbridged {l m : List (Nat × Nat)} (h : Bridged 5000 l m) : bridged l m := ⟨h.nonempty, h.apart, h.covers⟩
    exact ⟨bridgeGaps asserted, bridgeGaps (dropShort asserted), hbridged (bridgeBelow_bridged _ hordered),
      hbridged (bridgeBelow_bridged _ hordered.dropShort), seenDips_cases asserted⟩
  · intro o asserted strobes inCell count
    have hstrobes (line : KeyingLines → Bool) : strobeEdges (asserted line) = strobes line := strobeEdges_eq _
    have hcells : o.cells = if hasPhaseCells second then
        (List.range 7).map fun i => cellReading edge i (strobes KeyingLines.kya) (strobes KeyingLines.kyr) else [] := by
      rw [← hstrobes, ← hstrobes]
      rfl
    refine ⟨rfl, fun hnone => ?_, fun hfirst hlast => ?_, ?_⟩
    · rw [hcells, if_neg]
      rw [hasPhaseCells_iff]
      omega
    · rw [hcells, if_pos ((hasPhaseCells_iff second).mpr ⟨hfirst, hlast⟩)]
      refine ⟨by simp, fun i hi => ?_⟩
      have hreading := cellReading_iff edge i (strobes KeyingLines.kya) (strobes KeyingLines.kyr)
      simp only [strobeInCell_eq] at hreading
      simp only [List.getElem?_map, List.getElem?_range hi, Option.map_some, Option.some.injEq]
      exact hreading
    · have hstray : o.stray = (hasLong (asserted KeyingLines.kya) || hasLong (asserted KeyingLines.kyr)
          || (strobes KeyingLines.kya ++ strobes KeyingLines.kyr).any fun t => !strobeHasCell second edge t) := by
        rw [← hstrobes, ← hstrobes]
        rfl
      rw [hstray, Bool.or_eq_true, Bool.or_eq_true, hasLong_iff, hasLong_iff, List.any_eq_true]
      simp only [strobeHasCell_eq_false_iff, List.mem_append, or_and_right, exists_or]
      rfl
end

section
/-! SUPPORT. What an own edge leaves of the decoder's findings (R128 to R134, R140): the open minute, the air log, the evidence, the
last cue. -/

namespace Sys2Proof.Machine

/-- What the decoder has made of what it saw: the open minute, the air log, the evidence for the SHADOW report, and the cue. -/
def Decoder.findings (d : Decoder) : Option OpenMinute × List AirRecord × Option Evidence × BitVec 4 × Bool :=
  (d.openMinute, d.log, d.evidence, d.lastCue, d.cus)

/-! ### The parts of an own edge -/

/-- A window that an own edge ends adds no keyers (R131). -/
theorem endWindow_dec (s : State) : (endWindow s).dec = s.dec := by
  have hkeyers (m : Option OpenMinute) : addKeyers (deadRecord s) m = m := by
    have hnone : ∀ m : OpenMinute, { m with keyers := m.keyers ||| (deadRecord s).hold } = m :=
      fun m => congrArg (OpenMinute.mk _ _ _) BitVec.or_zero
    rw [addKeyers_eq]
    split
    · rfl
    · simp [hnone]
  unfold endWindow
  split
  · rw [closeCut, closeDead]
    dsimp only
    rw [closeWith_dec, cancelUnreadYield_frame, missPass_frame]
    dsimp only
    rw [hkeyers]
  · rw [missPass_frame]
  · rfl

theorem State.releaseKeying_findings (t : Instant) (s : State) : (s.releaseKeying t).dec.findings = s.dec.findings := by
  obtain ⟨bus, loop, hdec⟩ := s.releaseKeying_dec t
  rw [hdec]
  rfl

theorem State.edgeCounted_findings (s : State) :
    s.edgeCounted.dec.findings = (secondEnds s.windowRead s.trk.nextEdge (endWindow s)).dec.findings := by
  unfold State.edgeCounted
  rw [trackerEdge_frame]
  exact State.releaseKeying_findings _ _

/-- Of the decoder a minute boundary changes what the close of the air minute changes. -/
theorem minuteBoundary_dec (m : Nat) (s : State) : (minuteBoundary m s).dec = (closeAirMinute m s).1.dec := by
  have hbegin (u : State) : (proofBegin (handOver u)).dec = u.dec := by rw [proofBegin_frame]; rfl
  have hlisten (u : State) : (listenBoundary (zoneDue m u)).dec = u.dec := by rw [listenBoundary_frame, zoneDue_frame]
  have hjudge (u : State) : (proofJudge u).dec = u.dec := by rw [proofJudge_frame]
  have hcredit (r : Option AirRecord) (d : Option Draft) (u : State) : (takeCredit r d (countdowns u)).dec = u.dec := by
    rw [takeCredit_frame, countdowns_frame]
  exact (hbegin _).trans ((hlisten _).trans ((hjudge _).trans (hcredit _ _ _)))

theorem ownEdge_findings_of_boundary {s : State} (h : s.trk.boundaryNext = true) :
    (ownEdge s).dec.findings = (closeAirMinute s.trk.atEdge.minute s.edgeCounted).1.dec.findings := by
  rw [ownEdge_of_boundary s h, proofReferenceCheck_eq, keyEdge_frame, ← minuteBoundary_dec]
  rfl

theorem ownEdge_findings_of_within {s : State} (h : s.trk.boundaryNext = false) :
    (ownEdge s).dec.findings = s.edgeCounted.dec.findings := by
  cases hfreeze : s.trk.freezeNext with
  | true =>
    rw [ownEdge_of_freeze s hfreeze, proofReferenceCheck_eq, freezeEdge_frame, keyEdge_frame]
    rfl
  | false =>
    rw [ownEdge_of_plain s h hfreeze, proofReferenceCheck_eq, keyEdge_frame]
    rfl

/-! ### The latches -/

theorem minuteBoundary_latched_airIncomplete (m : Nat) (s : State) :
    (minuteBoundary m s).latched .airIncomplete = (closeAirMinute m s).1.latched .airIncomplete := by
  unfold minuteBoundary
  dsimp only
  rw [proofBegin_frame, handOver_frame, listenBoundary_frame]
  refine (zoneDue_raises (f := .airIncomplete) m _ nofun).trans ((proofJudge_raises (f := .airIncomplete) _ nofun nofun).trans
    ((takeCredit_raises (f := .airIncomplete) _ _ _ nofun nofun nofun).trans ?_))
  rw [countdowns_frame]
  rfl

theorem State.edgeCounted_raises {f : Event} (s : State) (hexpired : f ≠ .refExpired) (hleap : f ≠ .leapApplied) :
    s.edgeCounted.latched f = (secondEnds s.windowRead s.trk.nextEdge (endWindow s)).latched f := by
  unfold State.edgeCounted
  rw [trackerEdge_raises _ hexpired hleap]
  exact State.latched_of_ev (State.releaseKeying_ev _ _) f

theorem State.edgeCounted_latched_airIncomplete (s : State) :
    s.edgeCounted.latched .airIncomplete = s.latched .airIncomplete :=
  (s.edgeCounted_raises (f := .airIncomplete) nofun nofun).trans
    ((secondEnds_raises (f := .airIncomplete) _ _ _ nofun).trans (endWindow_raises (f := .airIncomplete) s nofun nofun))

theorem ownEdge_latched_airIncomplete {s : State} (h : s.trk.boundaryNext = true) :
    (ownEdge s).latched .airIncomplete = (closeAirMinute s.trk.atEdge.minute s.edgeCounted).1.latched .airIncomplete := by
  rw [State.latched_of_ev (ownEdge_ev_of_boundary s h), State.edgeSettled,
    keyEdge_raises (f := .airIncomplete) _ _ nofun nofun nofun nofun, State.edgeTurned, if_pos h, minuteBoundary_latched_airIncomplete]

/-! ### The end of a second -/

/-- A cue writes no part of the findings but the cue's own. -/
theorem cueStep_openMinute (entry : SecondEntry) (s : State) :
    (cueStep entry s).dec.openMinute = s.dec.openMinute ∧ (cueStep entry s).dec.log = s.dec.log
      ∧ (cueStep entry s).dec.evidence = s.dec.evidence := by
  unfold cueStep
  split
  · split <;> exact ⟨rfl, rfl, rfl⟩
  · exact ⟨rfl, rfl, rfl⟩

/-- The entry of the second that an own edge at `e` ends, for the open minute `m`. -/
def State.busEntry (m : OpenMinute) (e : Instant) (s : State) : SecondEntry :=
  endedEntry m e s.dec.busBase s.dec.busTrace s

/-- The loop entry of the second that an own edge at `e` ends. -/
def State.loopEntry (m : OpenMinute) (e : Instant) (s : State) : SecondEntry :=
  endedEntry m e s.dec.loopBase s.dec.loopTrace s

/-- The entry that a cue goes by: in a proof minute the looped one (R140). -/
def State.heardEntry (m : OpenMinute) (e : Instant) (s : State) : SecondEntry :=
  if s.key.proof.running then s.loopEntry m e else s.busEntry m e

/-- The entry of a second that was observed whole, and of one that was not (R127, R130, R131). -/
theorem secondEntry_eq (d : Option Draft) (second : Nat) (edge ended : Instant) (base : KeyingLines)
    (trace : List LineSample) :
    secondEntry d second edge ended base trace =
      if edge + 980000 ≤ ended then
        ⟨(observeSpan second edge base trace).symbol, (observeSpan second edge base trace).cells,
          (observeSpan second edge base trace).stray, true,
          d.map fun d => decide (observeSpan second edge base trace = expectedObservation d second)⟩
      else ⟨.unclear, [], false, false, none⟩ := by
  simp only [secondEntry, observedSecond, decide_eq_true_eq]
  rfl

theorem State.busEntry_of_next {m : OpenMinute} {s : State} (h : m.entries.length = s.trk.second) (e : Instant) :
    s.busEntry m e = secondEntry s.current s.trk.second s.trk.lastEdge e s.dec.busBase s.dec.busTrace := if_pos h

theorem State.loopEntry_of_next {m : OpenMinute} {s : State} (h : m.entries.length = s.trk.second) (e : Instant) :
    s.loopEntry m e = secondEntry s.current s.trk.second s.trk.lastEdge e s.dec.loopBase s.dec.loopTrace := if_pos h

/-- The state when the second that ends is entered, the evidence settled and the proof report made, before the cue. -/
def State.secondEntered (read : Bool) (m : OpenMinute) (e : Instant) (s : State) : State :=
  { s with
    dec :=
      { s.dec with
        openMinute := some (withEntries (s.busEntry m e) (s.loopEntry m e) s m)
        evidence := some (evidenceOf read (s.busEntry m e) s) }
    key :=
      if s.key.proof.running then
        (proofReport ((s.loopEntry m e).observed && (s.loopEntry m e).matched == some true) s).key
      else s.key }

theorem secondEnds_of_open {read : Bool} {e : Instant} {s : State} {m : OpenMinute} (h : s.dec.openMinute = some m) :
    secondEnds read e s = cueStep (s.heardEntry m e) (s.secondEntered read m e) := by
  unfold secondEnds State.heardEntry State.secondEntered
  rw [h]
  cases s.key.proof.running <;> rfl

/-! ### The end of a second after the end of its window -/

section Ended
variable (s : State)

theorem endWindow_trk : (endWindow s).trk = s.trk := by rw [endWindow_frame]

theorem endWindow_current : (endWindow s).current = s.current := by rw [endWindow_frame]

theorem endWindow_curRec : (endWindow s).curRec = s.curRec := by rw [endWindow_frame]

variable (m : OpenMinute) (e : Instant)

/-- The end of the window leaves what the second showed. -/
theorem endWindow_busEntry : (endWindow s).busEntry m e = s.busEntry m e := by
  simp only [State.busEntry, endedEntry, endWindow_dec, endWindow_trk, endWindow_current]

theorem endWindow_loopEntry : (endWindow s).loopEntry m e = s.loopEntry m e := by
  simp only [State.loopEntry, endedEntry, endWindow_dec, endWindow_trk, endWindow_current]

theorem endWindow_heardEntry : (endWindow s).heardEntry m e = s.heardEntry m e := by
  simp only [State.heardEntry, endWindow_proof, endWindow_busEntry, endWindow_loopEntry]

theorem endWindow_withEntries (entry loopEntry : SecondEntry) :
    withEntries entry loopEntry (endWindow s) m = withEntries entry loopEntry s m := by
  simp only [withEntries, endWindow_trk, endWindow_proof]

end Ended

/-- The second that an own edge ends is entered, its evidence settled and its proof report made, in the state that the end of its
window leaves. -/
def State.edgeEntered (m : OpenMinute) (s : State) : State := (endWindow s).secondEntered s.windowRead m s.trk.nextEdge

/-- Up to the tracker's part an own edge enters the second that ends and settles the evidence. -/
theorem State.edgeCounted_entered {s : State} {m : OpenMinute} (h : s.dec.openMinute = some m) :
    s.edgeCounted.dec.openMinute =
        some (withEntries (s.busEntry m s.trk.nextEdge) (s.loopEntry m s.trk.nextEdge) s m)
      ∧ s.edgeCounted.dec.log = s.dec.log
      ∧ s.edgeCounted.dec.evidence = some (evidenceOf s.windowRead (s.busEntry m s.trk.nextEdge) (endWindow s)) := by
  have hopen : (endWindow s).dec.openMinute = some m := (congrArg Decoder.openMinute (endWindow_dec s)).trans h
  have hfindings := s.edgeCounted_findings
  obtain ⟨hminute, hlog, hevidence⟩ :=
    cueStep_openMinute ((endWindow s).heardEntry m s.trk.nextEdge) (s.edgeEntered m)
  rw [secondEnds_of_open hopen] at hfindings
  simp only [Decoder.findings, Prod.mk.injEq] at hfindings
  obtain ⟨hminute', hlog', hevidence', -⟩ := hfindings
  refine ⟨hminute'.trans (hminute.trans ?_), hlog'.trans (hlog.trans ?_), hevidence'.trans (hevidence.trans ?_)⟩
  · rw [← endWindow_busEntry, ← endWindow_loopEntry, ← endWindow_withEntries]
    rfl
  · show (endWindow s).dec.log = s.dec.log
    rw [endWindow_dec]
  · rw [← endWindow_busEntry]
    rfl

end Sys2Proof.Machine
end

section
/-! SUPPORT. The air record (R134 to R137): its fields, each from the entries of its minute, and its entry in the log (R138). -/

namespace Sys2Proof.Machine

/-! ### The header (R135) -/

/-- A header second as it is observed: ONE for a 1 bit, ZERO for a 0 bit (R135). -/
def headerSymbol (b : Bool) : ObsSymbol := if b then .one else .zero

theorem ObsSymbol.bit?_eq_some_iff (y : ObsSymbol) (b : Bool) : y.bit? = some b ↔ y = headerSymbol b := by
  cases y <;> cases b <;> simp [ObsSymbol.bit?, headerSymbol]

/-- Symbols that carry bits are those of the bits, one by one. -/
theorem mapM_bit?_eq_some_iff (l : List ObsSymbol) (bits : List Bool) :
    l.mapM ObsSymbol.bit? = some bits ↔ l = bits.map headerSymbol := by
  induction l generalizing bits with
  | nil => cases bits <;> simp
  | cons y l ih =>
    rw [List.mapM_cons]
    simp only [Option.bind_eq_bind, Option.bind_eq_some_iff, ih, ObsSymbol.bit?_eq_some_iff]
    cases bits <;> simp

theorem count_one_map_headerSymbol (bits : List Bool) : (bits.map headerSymbol).count .one = bits.count true := by
  induction bits with
  | nil => rfl
  | cons b bits ih => cases b <;> simp [headerSymbol, ih]

theorem bitsToNat_eq_foldl (bits : List Bool) :
    bitsToNat bits = (bits.map headerSymbol).foldl (fun n y => 2 * n + if y = .one then 1 else 0) 0 := by
  rw [bitsToNat, List.foldl_map]
  congr
  funext n b
  cases b <;> rfl

section Header
variable {symbols : List ObsSymbol} {bits : List Bool}

/-- The seconds of the header are those of `bits`, second 1 first. -/
def CarriesBits (symbols : List ObsSymbol) (bits : List Bool) : Prop :=
  bits.length = 57 ∧ (symbols.drop 1).take 57 = bits.map headerSymbol

theorem carriesBits_iff :
    (∃ bits, CarriesBits symbols bits) ↔ ∀ k, 1 ≤ k → k ≤ 57 → symbols[k]? = some .zero ∨ symbols[k]? = some .one := by
  have hplace {k : Nat} (hfirst : 1 ≤ k) (hlast : k ≤ 57) : ((symbols.drop 1).take 57)[k - 1]? = symbols[k]? := by
    rw [List.getElem?_take_of_lt (by omega), List.getElem?_drop]
    congr 1
    omega
  constructor
  · rintro ⟨bits, hlength, hbits⟩ k hfirst hlast
    have hk : k - 1 < bits.length := by omega
    rw [← hplace hfirst hlast, hbits, List.getElem?_map, List.getElem?_eq_getElem hk]
    cases bits[k - 1] <;> simp [headerSymbol]
  · intro hbits
    have hlong : 57 < symbols.length := by
      obtain h | h := hbits 57 (by omega) (by omega) <;> exact (List.getElem?_eq_some_iff.mp h).1
    refine ⟨((symbols.drop 1).take 57).map fun y => decide (y = .one), by simp; omega, ?_⟩
    rw [List.map_map, eq_comm]
    refine (List.map_congr_left fun y hy => ?_).trans (List.map_id _)
    obtain ⟨j, hj, rfl⟩ := List.getElem_of_mem hy
    have hj57 : j < 57 := by simp at hj; omega
    have hread := hbits (j + 1) (by omega) (by omega)
    rw [← hplace (by omega) (by omega), Nat.add_sub_cancel, List.getElem?_eq_getElem hj] at hread
    obtain h | h := hread <;> rw [Option.some.inj h] <;> rfl

theorem CarriesBits.field (h : CarriesBits symbols bits) {first width : Nat} (hfirst : 1 ≤ first)
    (hlast : first + width ≤ 58) :
    (symbols.drop first).take width = ((bits.drop (first - 1)).take width).map headerSymbol := by
  obtain ⟨k, rfl⟩ : ∃ k, first = 1 + k := ⟨first - 1, by omega⟩
  have hwidth : min width (57 - k) = width := by omega
  rw [List.map_take, List.map_drop, ← h.2, Nat.add_sub_cancel_left, List.drop_take, List.take_take, List.drop_drop, hwidth]

/-- How many ONE symbols stand in some seconds (R135). -/
def onesIn (symbols : List ObsSymbol) (first width : Nat) : Nat := ((symbols.drop first).take width).count .one

/-- The number in some seconds, most significant bit first (R135). -/
def fieldIn (symbols : List ObsSymbol) (first width : Nat) : Nat :=
  ((symbols.drop first).take width).foldl (fun n y => 2 * n + if y = .one then 1 else 0) 0

/-- The four parity groups hold an even number of ONE symbols each (R135). -/
def ParityHolds (symbols : List ObsSymbol) : Prop :=
  onesIn symbols 6 7 % 2 = 0 ∧ onesIn symbols 13 6 % 2 = 0 ∧ onesIn symbols 19 20 % 2 = 0 ∧ onesIn symbols 39 19 % 2 = 0

/-- The header that the symbols of a minute spell (R135). -/
def headerOf (symbols : List ObsSymbol) : AirHeader where
  minute := fieldIn symbols 6 6
  hour := fieldIn symbols 13 5
  dayOfYear := fieldIn symbols 19 9
  yearOfCentury := fieldIn symbols 28 7
  weekday := fieldIn symbols 35 3
  annId := fieldIn symbols 39 8
  segNo := fieldIn symbols 47 5
  lastSeg := fieldIn symbols 52 5

theorem CarriesBits.headerField (h : CarriesBits symbols bits) {first width : Nat} (hfirst : 1 ≤ first)
    (hlast : first + width ≤ 58) : headerField bits first width = fieldIn symbols first width := by
  rw [Machine.headerField, bitsToNat_eq_foldl, ← h.field hfirst hlast, fieldIn]

theorem CarriesBits.groupEven_iff (h : CarriesBits symbols bits) {first last : Nat} (hfirst : 1 ≤ first)
    (hle : first ≤ last) (hlast : last ≤ 57) :
    groupEven bits first last = true ↔ onesIn symbols first (last + 1 - first) % 2 = 0 := by
  rw [groupEven, beq_iff_eq, ← count_one_map_headerSymbol, ← h.field hfirst (by omega), onesIn]

theorem CarriesBits.groups_iff (h : CarriesBits symbols bits) :
    (bits.length = 57 ∧ groupEven bits 6 12 ∧ groupEven bits 13 18 ∧ groupEven bits 19 38 ∧ groupEven bits 39 57) ↔
      ParityHolds symbols := by
  rw [and_iff_right h.1, h.groupEven_iff, h.groupEven_iff, h.groupEven_iff, h.groupEven_iff, ParityHolds]
  all_goals omega

theorem decodeHeader_of_bits (h : CarriesBits symbols bits) (hparity : ParityHolds symbols) :
    decodeHeader symbols = some (headerOf symbols) := by
  rw [decodeHeader, (mapM_bit?_eq_some_iff _ _).mpr h.2]
  dsimp only
  rw [if_pos (h.groups_iff.mpr hparity), headerOf]
  simp only [h.headerField, Nat.reduceLeDiff, Nat.reduceAdd]

theorem decodeHeader_of_unreadable (h : ¬((∃ bits, CarriesBits symbols bits) ∧ ParityHolds symbols)) :
    decodeHeader symbols = none := by
  unfold decodeHeader
  split
  · rfl
  · next bits hbits =>
    refine if_neg fun hgroups => h ?_
    have hcarries : CarriesBits symbols bits := ⟨hgroups.1, (mapM_bit?_eq_some_iff _ _).mp hbits⟩
    exact ⟨⟨bits, hcarries⟩, hcarries.groups_iff.mp hgroups⟩

end Header

/-! ### The other fields (R136, R137) -/

theorem recordComplete_iff (symbols : List ObsSymbol) :
    recordComplete symbols = true ↔
      (∀ y ∈ symbols, y ≠ .blank ∧ y ≠ .unclear) ∧ 59 ≤ symbols.length ∧ symbols.length ≤ 61 := by
  have hvalid (y : ObsSymbol) : y.valid = true ↔ y ≠ .blank ∧ y ≠ .unclear := by cases y <;> simp [ObsSymbol.valid]
  simp only [recordComplete, Bool.and_eq_true, List.all_eq_true, hvalid, decide_eq_true_eq, and_assoc]

theorem recordSteady_iff (entries : List SecondEntry) :
    recordSteady entries = true ↔ ∀ e ∈ entries, e.symbol = .blank ∧ e.stray = false ∧ ∀ x ∈ e.cells, x = .hold := by
  simp only [recordSteady, SecondEntry.quiet, List.all_eq_true, Bool.and_eq_true, beq_iff_eq, Bool.not_eq_true',
    and_comm (b := _ = false)]

/-- One step of the division, with the bit that leaves the register written out (R11). -/
theorem bitRemainder_eq (bits : List Bool) :
    bitRemainder bits =
      bits.foldl
        (fun (reg : Byte) b => (reg <<< 1) ^^^ (if b then 1#8 else 0#8) ^^^ (if reg.getLsbD 7 then 0x07#8 else 0#8))
        0#8 := by
  have hstep (reg : Byte) (b : Bool) : crc8Shift reg ^^^ (if b then 1#8 else 0#8) =
      (reg <<< 1) ^^^ (if b then 1#8 else 0#8) ^^^ (if reg.getLsbD 7 then 0x07#8 else 0#8) := by
    have hmsb : reg.msb = reg.getLsbD 7 := BitVec.msb_eq_getLsbD_last reg
    rw [crc8Shift, hmsb]
    cases reg.getLsbD 7
    case false => exact BitVec.xor_zero.symm
    case true => exact (BitVec.xor_assoc _ _ _).trans ((congrArg _ (BitVec.xor_comm _ _)).trans (BitVec.xor_assoc _ _ _).symm)
  simp only [bitRemainder, hstep]

theorem segmentCheckGood_iff (cells : List CellReading) :
    segmentCheckGood cells = true ↔ ∃ bits, recoverStream cells = some bits ∧ bitRemainder bits = 0#8 := by
  unfold segmentCheckGood
  cases recoverStream cells <;> simp

theorem recordSegmentCheck_of_header (entries : List SecondEntry) {h : AirHeader} (hid : h.annId ≠ 0) :
    recordSegmentCheck entries (some h) =
      some (((entries.drop 1).take 56).all SecondEntry.observed
        && segmentCheckGood (((entries.drop 1).take 56).flatMap SecondEntry.cells)) := if_neg hid

theorem recordSegmentCheck_of_no_id (entries : List SecondEntry) {header : Option AirHeader}
    (h : ∀ x, header = some x → x.annId = 0) : recordSegmentCheck entries header = none := by
  cases header with
  | none => rfl
  | some x => exact if_pos (h x rfl)

/-- Whether every second matched the retired draft (R137). -/
theorem recordMatches_some (entries : List SecondEntry) (d : Draft) :
    ∃ matched, recordMatches entries (some d) = some matched
      ∧ (matched = true ↔
        (∀ e ∈ entries, e.observed = true ∧ e.matched = some true)
          ∧ ∀ c, d.coded = some c → entries.length = c.symbolCount) := by
  refine ⟨_, rfl, ?_⟩
  rw [Bool.and_eq_true]
  cases d.coded <;> simp

/-- The log that a record enters (R138): of eight records the oldest goes. -/
theorem enterLog_eq (r : AirRecord) (log : List AirRecord) :
    enterLog r log =
      (log.filter fun x => decide (x.minute < r.minute)).drop
          ((log.filter fun x => decide (x.minute < r.minute)).length - 7) ++ [r] := by
  unfold enterLog
  dsimp only
  split
  · rfl
  next hfew => rw [show _ - 7 = 0 by omega, List.drop_zero]

theorem closeAirMinute_of_open (n : Nat) {s : State} {m : OpenMinute} (h : s.dec.openMinute = some m) :
    (closeAirMinute n s).1.dec.openMinute = some ⟨n, [], [], 0⟩
      ∧ (closeAirMinute n s).1.dec.log = enterLog (airRecord m s.current) s.dec.log
      ∧ (closeAirMinute n s).1.latched .airIncomplete =
          (s.latched .airIncomplete
            || (!(airRecord m s.current).complete && !(airRecord m s.current).steady)) := by
  rw [closeAirMinute, h]
  dsimp only
  rw [State.raiseIf_dec, State.raiseIf_latched]
  refine ⟨rfl, rfl, ?_⟩
  rw [decide_eq_true rfl, Bool.and_true, Bool.or_comm]
  rfl

/-- At a boundary the open minute, the second that ends entered, becomes an air record (R131, R134, R138). -/
theorem ownEdge_closes_minute {s : State} {m : OpenMinute} (h : s.trk.boundaryNext = true)
    (hm : s.dec.openMinute = some m) :
    let closed := withEntries (s.busEntry m s.trk.nextEdge) (s.loopEntry m s.trk.nextEdge) s m
    let r := airRecord closed s.current
    (ownEdge s).dec.openMinute = some ⟨s.trk.minute + 1, [], [], 0⟩
      ∧ (ownEdge s).dec.log = enterLog r s.dec.log
      ∧ (ownEdge s).latched .airIncomplete = (s.latched .airIncomplete || (!r.complete && !r.steady)) := by
  obtain ⟨hminute, hlog, -⟩ := State.edgeCounted_entered hm
  have hcurrent : s.edgeCounted.current = s.current := by rw [State.edgeCounted_frame]
  have hnumber : s.trk.atEdge.minute = s.trk.minute + 1 := by rw [s.trk.atEdge_minute, h]; rfl
  obtain ⟨hopened, hentered, hraised⟩ := closeAirMinute_of_open s.trk.atEdge.minute hminute
  have hfindings := ownEdge_findings_of_boundary h
  simp only [Decoder.findings, Prod.mk.injEq] at hfindings
  rw [hcurrent] at hentered hraised
  rw [hlog] at hentered
  rw [State.edgeCounted_latched_airIncomplete, ← ownEdge_latched_airIncomplete h] at hraised
  rw [hnumber] at hopened hfindings
  exact ⟨hfindings.1.trans hopened, hfindings.2.1.trans (hnumber ▸ hentered), hraised⟩

end Sys2Proof.Machine

open Sys2Proof Sys2Proof.Machine

/-- Settles O17: the boundary closes the open minute with the entry of the last second, and each field of the record is read off
the entries. -/
theorem boundaryEntersTheAirRecord : Obligations.BoundaryEntersTheAirRecord := by
  intro s m hahead hm
  have hboundary : s.trk.boundaryNext = true := (State.boundaryAhead_iff hahead.1).mp hahead
  refine ⟨ownEdge s, exec_ownEdge_of_running s hahead.1, ?_⟩
  obtain ⟨hopened, hlog, hraised⟩ := ownEdge_closes_minute hboundary hm
  intro o last entries symbols ones field readable cells earlier
  have hentries : (withEntries (s.busEntry m s.trk.nextEdge) (s.loopEntry m s.trk.nextEdge) s m).entries = entries := by
    have hedge : (ownEdge s).trk.lastEdge = s.trk.nextEdge := by rw [ownEdge_trk]; rfl
    simp only [withEntries, entries, last, o, hedge]
    split
    next hnext => rw [State.busEntry_of_next hnext, secondEntry_eq]
    next => rfl
  have hkept : (withEntries (s.busEntry m s.trk.nextEdge) (s.loopEntry m s.trk.nextEdge) s m).number = m.number
      ∧ (withEntries (s.busEntry m s.trk.nextEdge) (s.loopEntry m s.trk.nextEdge) s m).keyers = m.keyers := ⟨rfl, rfl⟩
  generalize withEntries (s.busEntry m s.trk.nextEdge) (s.loopEntry m s.trk.nextEdge) s m = closed
    at hlog hraised hentries hkept
  have hreadable : readable ↔ (∃ bits, CarriesBits symbols bits) ∧ ParityHolds symbols := and_congr_left' carriesBits_iff.symm
  have hheader : (airRecord closed s.current).header = decodeHeader symbols :=
    congrArg (fun l : List SecondEntry => decodeHeader (l.map SecondEntry.symbol)) hentries
  have hcheck : (airRecord closed s.current).segmentCheck = recordSegmentCheck entries (airRecord closed s.current).header :=
    congrArg (recordSegmentCheck · _) hentries
  have hmatches : (airRecord closed s.current).matchesCurrent = recordMatches entries s.current :=
    congrArg (recordMatches · _) hentries
  have hnumber : (airRecord closed s.current).minute = m.number := hkept.1
  have hentered := enterLog_eq (airRecord closed s.current) s.dec.log
  rw [hnumber] at hentered
  refine ⟨airRecord closed s.current, hlog.trans hentered, hopened, hnumber, congrArg _ hentries, hkept.2,
    recordComplete_iff _, ?_, fun hread => ?_, fun hnot => ?_, fun hid => ?_, fun h hh hid => ?_, fun hnone => ?_,
    fun d hd => ?_, hraised⟩
  · rw [← recordSteady_iff, ← hentries]
    rfl
  · obtain ⟨⟨bits, hbits⟩, hparity⟩ := hreadable.mp hread
    exact hheader.trans (decodeHeader_of_bits hbits hparity)
  · exact hheader.trans (decodeHeader_of_unreadable (mt hreadable.mpr hnot))
  · exact hcheck.trans (recordSegmentCheck_of_no_id _ hid)
  · rw [hcheck, hh, recordSegmentCheck_of_header _ hid]
    refine ⟨_, rfl, ?_⟩
    rw [Bool.and_eq_true, List.all_eq_true, segmentCheckGood_iff]
    simp only [bitRemainder_eq]
    rfl
  · rw [hmatches, hnone]
    rfl
  · rw [hmatches, hd]
    exact recordMatches_some entries d
end

section
/-! SUPPORT. The expected observation of a second (R130), and when a second's entry matches it. -/

namespace Sys2Proof.Machine

/-! ### The expected observation -/

/-- The phase cells of a second carry the draft's stream, seven a second (R9). -/
theorem CodedPart.cellAt_of_segment {c : CodedPart} {g : SegmentPart} (hg : c.segment = some g) {second i : Nat}
    (hsecond : hasPhaseCells second = true) (hi : i < 7) :
    c.cellAt second (13 + i) = (g.stream[7 * (second - 1) + i]?).getD .hold := by
  have hlast : 13 + i ≤ 19 := by omega
  simp [CodedPart.cellAt, hg, hsecond, hlast, cellNumber]

theorem CodedPart.cellAt_of_no_segment {c : CodedPart} (h : c.segment = none) (second tick : Nat) :
    c.cellAt second tick = .hold := by
  simp [CodedPart.cellAt, h]

section Expected
variable {d : Draft} {c : CodedPart} {second : Nat}

theorem expectedObservation_of_steady (h : d.coded = none) :
    expectedObservation d second = ⟨.blank, if hasPhaseCells second then List.replicate 7 .hold else [], false⟩ := by
  rw [expectedObservation, h]

theorem expectedObservation_of_coded (h : d.coded = some c) :
    expectedObservation d second =
      ⟨((c.row[second]?).map Symbol.observed).getD .blank,
        if hasPhaseCells second then (List.range 7).map fun i => (c.cellAt second (13 + i)).reading else [], false⟩ := by
  rw [expectedObservation, h]
  cases hrow : c.row[second]? <;> simp [hrow]

theorem expectedObservation_stray : (expectedObservation d second).stray = false := by
  cases h : d.coded with
  | none => rw [expectedObservation_of_steady h]
  | some c => rw [expectedObservation_of_coded h]

theorem expectedObservation_no_cells (h : ¬hasPhaseCells second = true) : (expectedObservation d second).cells = [] := by
  cases hcoded : d.coded with
  | none => rw [expectedObservation_of_steady hcoded, if_neg h]
  | some c => rw [expectedObservation_of_coded hcoded, if_neg h]

theorem expectedObservation_cells_length (h : hasPhaseCells second = true) :
    (expectedObservation d second).cells.length = 7 := by
  cases hcoded : d.coded with
  | none =>
    rw [expectedObservation_of_steady hcoded, if_pos h]
    exact List.length_replicate
  | some c =>
    rw [expectedObservation_of_coded hcoded, if_pos h]
    simp

theorem expectedObservation_cell (hcoded : d.coded = some c) (h : hasPhaseCells second = true) {i : Nat} (hi : i < 7) :
    (expectedObservation d second).cells[i]? = some (c.cellAt second (13 + i)).reading := by
  rw [expectedObservation_of_coded hcoded, if_pos h]
  simp [hi]

theorem expectedObservation_hold (hidle : ∀ c, d.coded = some c → c.segment = none) (h : hasPhaseCells second = true)
    {i : Nat} (hi : i < 7) : (expectedObservation d second).cells[i]? = some .hold := by
  cases hcoded : d.coded with
  | none =>
    rw [expectedObservation_of_steady hcoded, if_pos h]
    exact List.getElem?_replicate_of_lt hi
  | some c =>
    rw [expectedObservation_cell hcoded h hi, CodedPart.cellAt_of_no_segment (hidle c hcoded)]
    rfl

end Expected

/-! ### The match of a second -/

section Match
variable (d : Option Draft) (second : Nat) (edge ended : Instant) (base : KeyingLines) (trace : List LineSample)

/-- An entry matches when its second was observed whole and showed what the draft of its minute expects (R130). -/
theorem secondEntry_matched_iff :
    ((secondEntry d second edge ended base trace).observed = true
        ∧ (secondEntry d second edge ended base trace).matched = some true) ↔
      edge + 980000 ≤ ended ∧ ∃ x, d = some x ∧ observeSpan second edge base trace = expectedObservation x second := by
  rw [secondEntry_eq]
  split <;> simp [*]

/-- An entry is known not to match when its second was observed whole and showed something else. -/
theorem secondEntry_mismatched_iff :
    ((secondEntry d second edge ended base trace).observed = true
        ∧ (secondEntry d second edge ended base trace).matched = some false) ↔
      edge + 980000 ≤ ended ∧ ∃ x, d = some x ∧ observeSpan second edge base trace ≠ expectedObservation x second := by
  rw [secondEntry_eq]
  split <;> simp [*]

end Match

/-! ### The cue (R140) -/

theorem cueValueAt_eq_some_iff (current : Option Draft) (second v : Nat) :
    cueValueAt current second = some v ↔
      ∃ d c g, current = some d ∧ d.coded = some c ∧ c.segment = some g
        ∧ ∃ x, g.cues.find? (fun x => x.second == second) = some x ∧ x.value = v := by
  unfold cueValueAt
  cases current with
  | none => simp
  | some d =>
    cases hcoded : d.coded with
    | none => simp [hcoded]
    | some c => cases hsegment : c.segment <;> simp [hcoded, hsegment]

/-- The cue of a second whose entries in the cue list all give one value. -/
theorem cueValueAt_of_mem {d : Draft} {c : CodedPart} {g : SegmentPart} (hcoded : d.coded = some c)
    (hsegment : c.segment = some g) {second v : Nat} (hmem : ⟨second, v⟩ ∈ g.cues)
    (hone : ∀ x ∈ g.cues, x.second = second → x.value = v) : cueValueAt (some d) second = some v := by
  refine (cueValueAt_eq_some_iff _ _ _).mpr ⟨d, c, g, rfl, hcoded, hsegment, ?_⟩
  cases hfind : g.cues.find? fun x => x.second == second with
  | none => exact absurd (List.find?_eq_none.mp hfind _ hmem) (by simp)
  | some x => exact ⟨x, rfl, hone x (List.mem_of_find?_eq_some hfind) (by simpa using List.find?_some hfind)⟩

theorem cueStep_of_cued {entry : SecondEntry} {s : State} {v : Nat} (hcue : cueValueAt s.current s.trk.second = some v)
    (hassents : assents s.curRec = true) (hmatched : entry.observed = true ∧ entry.matched = some true) :
    cueStep entry s = s.signalCue v := by
  rw [cueStep, hcue]
  exact if_pos ⟨hassents, hmatched⟩

theorem cueStep_of_not_cued {entry : SecondEntry} {s : State}
    (h : cueValueAt s.current s.trk.second = none ∨ ¬assents s.curRec = true
      ∨ ¬(entry.observed = true ∧ entry.matched = some true)) : cueStep entry s = s := by
  unfold cueStep
  split
  next v hcue =>
    refine if_neg fun ⟨hassents, hmatched⟩ => ?_
    obtain hnone | hnot | hnot := h
    · simp [hnone] at hcue
    · exact hnot hassents
    · exact hnot hmatched
  next => rfl

end Sys2Proof.Machine
end

section
/-! SUPPORT. The second that an own edge ends, as it stands after the whole edge (R119, R131 to R133, R140). -/

namespace Sys2Proof.Machine

/-! ### The latch of the cue -/

/-- Examining the lanes can latch LANE_FAULT. -/
theorem examineLanes_raises {f : Event} (hfault : f ≠ .laneFault) (ls : List LaneNo)
    (acc : State × Option (LaneNo × DescIndex)) : (ls.foldl examineLane acc).1.latched f = acc.1.latched f := by
  induction ls generalizing acc with
  | nil => rfl
  | cons l ls ih =>
    rw [List.foldl_cons, ih]
    unfold examineLane
    dsimp only
    split
    · split
      · exact State.laneEvent_raises _ _ hfault
      · split <;> rfl
    · rfl

/-- The choice at a freeze can latch LANE_FAULT or ANNOUNCE_DONE. -/
theorem laneChoice_raises {f : Event} (hfault : f ≠ .laneFault) (hdone : f ≠ .announceDone) (s : State) :
    (laneChoice s).1.latched f = s.latched f := by
  have hexamined := examineLanes_raises hfault s.laneOrder (s, none)
  unfold laneChoice
  dsimp only
  split
  · exact hexamined
  · split
    · exact (State.laneEvent_raises _ _ hdone).trans hexamined
    · exact hexamined

/-- A freeze can latch LANE_FAULT or ANNOUNCE_DONE. -/
theorem freezeEdge_raises {f : Event} (before : KeyState) (read : Bool) (s : State) (hfault : f ≠ .laneFault)
    (hdone : f ≠ .announceDone) : (freezeEdge before read s).latched f = s.latched f := by
  have hask (q : Bool) : (askLanes q (clearAssentPasses s)).1.latched f = s.latched f := by
    unfold askLanes
    split
    · rfl
    · exact laneChoice_raises hfault hdone _
  unfold freezeEdge freeze
  dsimp only
  split
  · rfl
  · split
    · rfl
    · exact hask _

theorem ownEdge_latched_cue (s : State) : (ownEdge s).latched .cue = s.edgeCounted.latched .cue := by
  have hend (u : State) : (proofReferenceCheck (beginSecond u)).latched .cue = u.latched .cue := by
    rw [proofReferenceCheck_eq]
    rfl
  have hkey (b : Bool) (u : State) : (keyEdge b u).latched .cue = u.latched .cue :=
    keyEdge_raises (f := .cue) b u nofun nofun nofun nofun
  cases hboundary : s.trk.boundaryNext with
  | true =>
    rw [ownEdge_of_boundary s hboundary, hend, hkey]
    exact minuteBoundary_raises (f := .cue) _ _ nofun nofun nofun nofun nofun nofun nofun
  | false =>
    cases hfreeze : s.trk.freezeNext with
    | true =>
      rw [ownEdge_of_freeze s hfreeze, hend]
      exact (freezeEdge_raises (f := .cue) _ _ _ nofun nofun).trans (hkey _ _)
    | false => rw [ownEdge_of_plain s hboundary hfreeze, hend, hkey]

/-! ### The findings -/

/-- The evidence and the cue after an own edge are those that the end of the second leaves. -/
theorem ownEdge_evidence_cue (s : State) :
    (ownEdge s).dec.evidence = s.edgeCounted.dec.evidence ∧ (ownEdge s).dec.lastCue = s.edgeCounted.dec.lastCue
      ∧ (ownEdge s).dec.cus = s.edgeCounted.dec.cus := by
  have hclosed (n : Nat) (u : State) : (closeAirMinute n u).1.dec.evidence = u.dec.evidence
      ∧ (closeAirMinute n u).1.dec.lastCue = u.dec.lastCue ∧ (closeAirMinute n u).1.dec.cus = u.dec.cus := by
    unfold closeAirMinute
    dsimp only
    split
    · exact ⟨rfl, rfl, rfl⟩
    · dsimp only
      rw [State.raiseIf_dec]
      exact ⟨rfl, rfl, rfl⟩
  cases hboundary : s.trk.boundaryNext with
  | true =>
    have hfindings := ownEdge_findings_of_boundary hboundary
    obtain ⟨hevidence, hcue, hcus⟩ := hclosed s.trk.atEdge.minute s.edgeCounted
    simp only [Decoder.findings, Prod.mk.injEq, hevidence, hcue, hcus] at hfindings
    exact hfindings.2.2
  | false =>
    have hfindings := ownEdge_findings_of_within hboundary
    simp only [Decoder.findings, Prod.mk.injEq] at hfindings
    exact hfindings.2.2

section Entered
variable {s : State} {m : OpenMinute} (hm : s.dec.openMinute = some m)
include hm

/-- Within a minute an own edge adds the entry of the second that it ends, and no record (R131). -/
theorem ownEdge_enters_second (hwithin : s.trk.boundaryNext = false) :
    (ownEdge s).dec.openMinute = some (withEntries (s.busEntry m s.trk.nextEdge) (s.loopEntry m s.trk.nextEdge) s m)
      ∧ (ownEdge s).dec.log = s.dec.log := by
  have hfindings := ownEdge_findings_of_within hwithin
  obtain ⟨hminute, hlog, -⟩ := State.edgeCounted_entered hm
  simp only [Decoder.findings, Prod.mk.injEq] at hfindings
  exact ⟨hfindings.1.trans hminute, hfindings.2.1.trans hlog⟩

/-- An own edge settles the evidence of the second that it ends (R132). -/
theorem ownEdge_evidence :
    (ownEdge s).dec.evidence = some (evidenceOf s.windowRead (s.busEntry m s.trk.nextEdge) (endWindow s)) :=
  (ownEdge_evidence_cue s).1.trans (State.edgeCounted_entered hm).2.2

/-- The cue after an own edge is the one that the second it ends leaves (R140). -/
theorem ownEdge_cue :
    (ownEdge s).dec.lastCue = (cueStep (s.heardEntry m s.trk.nextEdge) (s.edgeEntered m)).dec.lastCue
      ∧ (ownEdge s).dec.cus = (cueStep (s.heardEntry m s.trk.nextEdge) (s.edgeEntered m)).dec.cus
      ∧ (ownEdge s).latched .cue = (cueStep (s.heardEntry m s.trk.nextEdge) (s.edgeEntered m)).latched .cue := by
  have hended := secondEnds_of_open (read := s.windowRead) (e := s.trk.nextEdge)
    ((congrArg Decoder.openMinute (endWindow_dec s)).trans hm)
  rw [endWindow_heardEntry] at hended
  have hfindings := s.edgeCounted_findings
  simp only [Decoder.findings, Prod.mk.injEq] at hfindings
  obtain ⟨-, -, -, hcue, hcus⟩ := hfindings
  obtain ⟨-, hcue', hcus'⟩ := ownEdge_evidence_cue s
  rw [hcue', hcus', hcue, hcus, ownEdge_latched_cue, s.edgeCounted_raises (f := .cue) nofun nofun, hended]
  exact ⟨rfl, rfl, rfl⟩

/-- Within a proof minute an own edge counts the looped second as matched or marks the proof as missed (R119, R133). -/
theorem ownEdge_proof_report (hwithin : s.trk.boundaryNext = false) (hrunning : s.key.proof.running = true) :
    let good := (s.loopEntry m s.trk.nextEdge).observed && (s.loopEntry m s.trk.nextEdge).matched == some true
    (ownEdge s).key.proof.matched = (if good then s.key.proof.matched + 1 else s.key.proof.matched)
      ∧ (ownEdge s).key.proof.missed = (if good then s.key.proof.missed else true) := by
  intro good
  obtain ⟨u, hedge, ⟨n, hkey⟩, -⟩ := ownEdge_eq_settled s
  obtain ⟨b, hread⟩ := proofReferenceCheck_key (beginSecond u)
  have hproof : s.edgeSettled.key.proof = (proofReport good (endWindow s)).key.proof := by
    have hopen : (endWindow s).dec.openMinute = some m := (congrArg Decoder.openMinute (endWindow_dec s)).trans hm
    rw [s.edgeSettled_proof, State.edgeTurned_of_not_boundary hwithin, s.edgeCounted_key, secondEnds_of_open hopen,
      cueStep_key, State.secondEntered, endWindow_proof, if_pos hrunning, endWindow_loopEntry]
  have hkept : (ownEdge s).key.proof.matched = s.edgeSettled.key.proof.matched
      ∧ (ownEdge s).key.proof.missed = s.edgeSettled.key.proof.missed := by
    rw [hedge, hread]
    show u.key.proof.matched = _ ∧ u.key.proof.missed = _
    rw [hkey]
    exact ⟨rfl, rfl⟩
  rw [hkept.1, hkept.2, hproof, ← endWindow_proof s]
  cases good <;> exact ⟨rfl, rfl⟩

end Entered

/-- What a cue goes by is as it was before the edge, and the cue itself too. -/
theorem State.edgeEntered_keeps (m : OpenMinute) (s : State) :
    (s.edgeEntered m).current = s.current ∧ (s.edgeEntered m).trk = s.trk ∧ (s.edgeEntered m).curRec = s.curRec
      ∧ (s.edgeEntered m).dec.lastCue = s.dec.lastCue ∧ (s.edgeEntered m).dec.cus = s.dec.cus
      ∧ (s.edgeEntered m).latched .cue = s.latched .cue := by
  refine ⟨endWindow_current s, endWindow_trk s, endWindow_curRec s, ?_, ?_, ?_⟩
  · show (endWindow s).dec.lastCue = s.dec.lastCue
    rw [endWindow_dec]
  · show (endWindow s).dec.cus = s.dec.cus
    rw [endWindow_dec]
  · exact endWindow_raises (f := .cue) s nofun nofun

section Next
variable {s : State} {m : OpenMinute} (hnext : m.entries.length = s.trk.second)
include hnext

theorem State.heardEntry_matched_iff (e : Instant) :
    ((s.heardEntry m e).observed = true ∧ (s.heardEntry m e).matched = some true) ↔
      s.trk.lastEdge + 980000 ≤ e ∧ ∃ d, s.current = some d
        ∧ (if s.key.proof.running = true then
            observeSpan s.trk.second s.trk.lastEdge s.dec.loopBase s.dec.loopTrace
          else observeSpan s.trk.second s.trk.lastEdge s.dec.busBase s.dec.busTrace) =
            expectedObservation d s.trk.second := by
  unfold State.heardEntry
  split
  · rw [State.loopEntry_of_next hnext, secondEntry_matched_iff]
  · rw [State.busEntry_of_next hnext, secondEntry_matched_iff]

theorem evidenceOf_mismatch_iff (read : Bool) (e : Instant) (t : State) :
    (evidenceOf read (s.busEntry m e) t).mismatch = true ↔
      s.trk.lastEdge + 980000 ≤ e ∧ ∃ d, s.current = some d
        ∧ observeSpan s.trk.second s.trk.lastEdge s.dec.busBase s.dec.busTrace ≠ expectedObservation d s.trk.second := by
  rw [← secondEntry_mismatched_iff, ← State.busEntry_of_next hnext]
  simp only [evidenceOf, Bool.and_eq_true, beq_iff_eq]

end Next

/-- The rest of the evidence, of a second whose window is not cut: the role of its minute's record, its draft, and the beacon. -/
theorem evidenceOf_rest {s : State} (hclosed : s.win.phase ≠ .opened) (entry : SecondEntry) :
    let v := evidenceOf s.windowRead entry (endWindow s)
    (v.assent = true ↔ ∃ r, s.curRec = some r ∧ r.outcome = .concord ∧ r.role = some .assent)
      ∧ (v.coded = true ↔ ∃ d c, s.current = some d ∧ d.coded = some c)
      ∧ (v.beacon = true ↔ s.win.phase = .over ∧ ∃ w, s.winRec = some w ∧ w.hold ≠ 0) := by
  simp only [evidenceOf, endWindow_curRec, endWindow_current, endWindow_winRec, if_neg hclosed, assents_iff]
  refine ⟨trivial, ?_, ?_⟩
  · cases s.current <;> simp [Option.isSome_iff_exists]
  · have hread : s.windowRead = true ↔ s.win.phase = .over := by
      unfold State.windowRead
      cases hphase : s.win.phase
      case opened => exact absurd hphase hclosed
      all_goals decide
    rw [Bool.and_eq_true, hread]
    cases s.winRec <;> simp

/-- Without the role ASSENT, without a cue for the second, and without a match of it nothing is signalled (R140). -/
theorem ownEdge_without_cue {s : State} {m : OpenMinute} (hm : s.dec.openMinute = some m)
    (h : (∀ r, s.curRec = some r → r.outcome = .concord → r.role ≠ some .assent)
      ∨ (∀ d c g, s.current = some d → d.coded = some c → c.segment = some g → ∀ x ∈ g.cues, x.second ≠ s.trk.second)
      ∨ ¬((s.heardEntry m s.trk.nextEdge).observed = true ∧ (s.heardEntry m s.trk.nextEdge).matched = some true)) :
    (ownEdge s).dec.lastCue = s.dec.lastCue ∧ (ownEdge s).dec.cus = s.dec.cus
      ∧ (ownEdge s).latched .cue = s.latched .cue := by
  obtain ⟨hcurrent, htrk, hrecord, hlast, hcus, hlatched⟩ := s.edgeEntered_keeps m
  have hstep : cueStep (s.heardEntry m s.trk.nextEdge) (s.edgeEntered m) = s.edgeEntered m := by
    refine cueStep_of_not_cued ?_
    rw [hcurrent, htrk, hrecord]
    obtain hrole | hnone | hnot := h
    · refine .inr (.inl fun hassents => ?_)
      obtain ⟨r, hr, hconcord, hassent⟩ := (assents_iff _).mp hassents
      exact hrole r hr hconcord hassent
    · refine .inl (Option.eq_none_iff_forall_ne_some.mpr fun v hv => ?_)
      obtain ⟨d, c, g, hd, hc, hg, x, hx, -⟩ := (cueValueAt_eq_some_iff _ _ _).mp hv
      exact hnone d c g hd hc hg x (List.mem_of_find?_eq_some hx) (by simpa using List.find?_some hx)
    · exact .inr (.inr hnot)
  obtain ⟨hlast', hcus', hlatched'⟩ := ownEdge_cue hm
  rw [hlast', hcus', hlatched', hstep]
  exact ⟨hlast, hcus, hlatched⟩

/-- A cue that a matched second gives is signalled (R140). -/
theorem ownEdge_with_cue {s : State} {m : OpenMinute} (hm : s.dec.openMinute = some m) {v : Nat}
    (hcue : cueValueAt s.current s.trk.second = some v) (hassents : assents s.curRec = true)
    (hmatched : (s.heardEntry m s.trk.nextEdge).observed = true ∧ (s.heardEntry m s.trk.nextEdge).matched = some true) :
    (ownEdge s).dec.lastCue = BitVec.ofNat 4 v ∧ (ownEdge s).dec.cus = true ∧ (ownEdge s).latched .cue = true := by
  obtain ⟨hcurrent, htrk, hrecord, -⟩ := s.edgeEntered_keeps m
  obtain ⟨hlast, hcus, hlatched⟩ := ownEdge_cue hm
  rw [hlast, hcus, hlatched, cueStep_of_cued (v := v) (by rw [hcurrent, htrk, hcue]) (hrecord ▸ hassents) hmatched]
  exact ⟨rfl, rfl, State.raise_latches _ _⟩

end Sys2Proof.Machine

open Sys2Proof Sys2Proof.Machine

/-- Settles O18: the expected observation case by case, the records of the lines from `ownEdge_lines`, and the entry, the evidence,
the proof report and the cue of the second that ends, which the rest of the edge keeps. -/
theorem ownEdgeEntersTheSecondAndSignalsItsCue : Obligations.OwnEdgeEntersTheSecondAndSignalsItsCue := by
  refine ⟨fun d second => ?_, fun s hrun => ?_, fun s m hrun hm hnext => ?_⟩
  · intro x
    refine ⟨expectedObservation_stray, fun h => ?_, fun c hc => ?_, fun h => ?_, fun hfirst hlast => ?_⟩
    · exact congrArg Observation.symbol (expectedObservation_of_steady h)
    · refine (congrArg Observation.symbol (expectedObservation_of_coded hc)).trans ?_
      cases c.row[second]? with
      | none => rfl
      | some sym => cases sym <;> rfl
    · exact expectedObservation_no_cells (by rw [hasPhaseCells_iff]; omega)
    · have hphase : hasPhaseCells second = true := (hasPhaseCells_iff second).mpr ⟨hfirst, hlast⟩
      refine ⟨expectedObservation_cells_length hphase, fun i hi => ⟨fun hidle => expectedObservation_hold hidle hphase hi,
        fun c g hc hg => ?_⟩⟩
      rw [expectedObservation_cell hc hphase hi, CodedPart.cellAt_of_segment hg hphase hi]
      cases g.stream[7 * (second - 1) + i]? with
      | none => rfl
      | some cell => cases cell with
        | hold => rfl
        | flip dir kind => cases dir <;> rfl
  · obtain ⟨-, hown, hloop, -⟩ := ownEdge_keying s
    have hlines := ownEdge_lines s
    simp only [Decoder.lines, forgetBefore, Prod.mk.injEq] at hlines
    obtain ⟨⟨hbusBase, hbus⟩, hloopBase, hloopTrace⟩ := hlines
    exact ⟨_, exec_ownEdge_of_running s hrun, hown, hloop, hbus, hbusBase, hloopTrace, hloopBase⟩
  · intro o looped heard
    have hedge : (ownEdge s).trk.lastEdge = s.trk.nextEdge := by
      rw [ownEdge_trk]
      rfl
    have hahead : s.boundaryAhead ↔ s.trk.boundaryNext = true := State.boundaryAhead_iff hrun
    have hwithin (h : ¬s.boundaryAhead) : s.trk.boundaryNext = false := Bool.eq_false_iff.mpr (mt hahead.mpr h)
    refine ⟨ownEdge s, exec_ownEdge_of_running s hrun, fun hnot => ?_, fun hclosed => ?_, fun hrunning hnot => ?_, ?_⟩
    all_goals rw [hedge]
    · obtain ⟨hminute, hlog⟩ := ownEdge_enters_second hm (hwithin hnot)
      refine ⟨_, s.busEntry m s.trk.nextEdge, hminute, rfl, rfl, if_pos hnext, hlog, fun hwhole => ?_, fun hcut => ?_⟩
      · rw [State.busEntry_of_next hnext, secondEntry_eq, if_pos hwhole]
        exact ⟨rfl, rfl, rfl, rfl, rfl⟩
      · rw [State.busEntry_of_next hnext, secondEntry_eq, if_neg (Nat.not_le.mpr hcut)]
    · obtain ⟨hassent, hcoded, hbeacon⟩ := evidenceOf_rest hclosed (s.busEntry m s.trk.nextEdge)
      exact ⟨_, ownEdge_evidence hm, hassent, hcoded, evidenceOf_mismatch_iff hnext _ _ _, hbeacon⟩
    · intro good
      have hgood : ((s.loopEntry m s.trk.nextEdge).observed && (s.loopEntry m s.trk.nextEdge).matched == some true) = true
          ↔ good := by
        rw [Bool.and_eq_true, beq_iff_eq, State.loopEntry_of_next hnext]
        exact secondEntry_matched_iff _ _ _ _ _ _
      obtain ⟨hmatched, hmissed⟩ := ownEdge_proof_report hm (hwithin hnot) hrunning
      rw [hmatched, hmissed]
      refine ⟨fun h => ?_, fun h => ?_⟩
      · rw [if_pos (hgood.mpr h), if_pos (hgood.mpr h)]
        exact ⟨rfl, rfl⟩
      · rw [if_neg (mt hgood.mp h), if_neg (mt hgood.mp h)]
        exact ⟨rfl, rfl⟩
    · intro cued
      have hheard := State.heardEntry_matched_iff hnext s.trk.nextEdge
      refine ⟨fun v hv => ?_, fun h => ownEdge_without_cue hm ?_⟩
      · obtain ⟨hrole, ⟨d, c, g, hd, hc, hg, hmem, hone, hshown⟩, hwhole⟩ := hv
        exact ownEdge_with_cue hm (hd ▸ cueValueAt_of_mem hc hg hmem hone) ((assents_iff _).mpr hrole)
          (hheard.mpr ⟨hedge ▸ hwhole, d, hd, hshown⟩)
      · obtain hrole | hnone | hcut | hother := h
        · exact .inl hrole
        · exact .inr (.inl hnone)
        · exact .inr (.inr fun hmatched => Nat.not_le.mpr hcut (hheard.mp hmatched).1)
        · refine .inr (.inr fun hmatched => ?_)
          obtain ⟨-, d, hd, hshown⟩ := hheard.mp hmatched
          exact hother d hd hshown
end

section
/-! SUPPORT. Which part of a command acts outside operation, and that no command reaches the queue (R165): each row as a function
of the state that leaves the queue alone. -/

namespace Sys2Proof.Machine

/-- The operation leaves the waiting commands as they are. -/
def KeepsQueue (f : State → State) : Prop := ∀ s, (f s).pending = s.pending

theorem KeepsQueue.whenRunning {f : State → State} (h : KeepsQueue f) : KeepsQueue (whenRunning f) := fun s =>
  whenRunning_keeps (fun t => t.pending = s.pending) f s rfl (h s)

/-- What a frame lemma says of an operation is enough where it leaves the queue. -/
theorem KeepsQueue.of_frame {f g : State → State} (heq : ∀ s, f s = g s) (hg : KeepsQueue g) : KeepsQueue f := fun s =>
  (congrArg State.pending (heq s)).trans (hg s)

/-! ### Supply, reset and the start interval (R165 to R167) -/

theorem powerOnValues_keepsQueue (p : State → Power) : KeepsQueue fun s => s.powerOnValues (p s) := fun _ => rfl

theorem rstnRelease_keepsQueue : KeepsQueue rstnRelease := fun s => by
  unfold rstnRelease
  split <;> rfl

theorem startIntervalEnd_keepsQueue (t : Instant) (pins : StrapPins) : KeepsQueue (startIntervalEnd t pins) := fun s => by
  unfold startIntervalEnd
  split <;> rfl

/-! ### The realign (R30) -/

/-- A realign that is not due, or that finds no REFP edge with a reference time, changes nothing. -/
theorem realign_cases (s : State) : realign s = s ∨ ∃ e u, realign s = s.afterRealign e u := by
  by_cases hdue : s.trk.realignDue ∧ s.trk.armed ∧ s.trk.refState = .stepping
  · cases htarget : s.trk.realignTarget with
    | none => simp [realign, hdue, htarget]
    | some target => exact .inr ⟨_, _, realign_of_target s target.1 target.2 hdue.1 hdue.2.1 hdue.2.2 htarget⟩
  · exact .inl (if_neg hdue)

theorem realign_keepsQueue : KeepsQueue realign := fun s => by
  obtain hsame | ⟨e, u, hafter⟩ := realign_cases s
  · rw [hsame]
  · rw [hafter, State.afterRealign_frame]

/-! ### The link (R173 to R175) -/

theorem perform_keepsQueue (r : Request) : KeepsQueue fun s => (perform r s).state := fun s => (perform_outside r s).1

theorem cliCharacter_keepsQueue (b : Byte) : KeepsQueue (cliCharacter b) := fun s =>
  cliCharacter_keeps (fun t => t.pending = s.pending) (fun _ _ h => h)
    (fun r t h => (perform_keepsQueue r t).trans h) b s rfl

theorem cliFrame_keepsQueue (bytes : List Byte) : KeepsQueue (cliFrame bytes) := fun s =>
  cliFrame_keeps (fun t => t.pending = s.pending) (fun _ _ h => h)
    (fun r t h => (perform_keepsQueue r t).trans h) bytes s rfl

theorem command_keepsQueue (r : Request) : KeepsQueue (command r) := cliFrame_keepsQueue (requestFrame r)

theorem cliFramingError_keepsQueue : KeepsQueue cliFramingError := fun s => by
  unfold cliFramingError
  split <;> rfl

theorem cliGapTimeout_keepsQueue : KeepsQueue cliGapTimeout := fun s => by
  unfold cliGapTimeout
  split <;> rfl

theorem restart_keepsQueue (t : Instant) : KeepsQueue (restart t) := fun s => s.releaseKeying_pending t

theorem responseEnd_keepsQueue (t : Instant) : KeepsQueue (responseEnd t) := fun s => by
  unfold responseEnd
  split
  · split
    · exact restart_keepsQueue t s
    · rfl
  all_goals rfl

/-! ### Every command -/

/-- A row that is not taken always acts while the unit runs, and only then; what it does leaves the queue alone. -/
theorem exec_eq_whenRunning (c : Instr) (hc : takenAlways c = false) :
    ∃ f, KeepsQueue f ∧ ∀ s, exec c s = .next (whenRunning f s) := by
  have hacts {f : State → State} (hf : KeepsQueue f) : ∃ g, KeepsQueue g ∧ ∀ s,
      (.next (whenRunning f s) : Host.Outcome State Fault Refusal) = .next (whenRunning g s) := ⟨f, hf, fun _ => rfl⟩
  cases c
  case powerOn | rstnAssert | rstnRelease | supplyLoss | startIntervalEnd | keyingBusChange => cases hc
  case refpEdge i => exact hacts (.of_frame (refpEdge_frame i) fun _ => rfl)
  case referenceMessage b => exact hacts (.of_frame (refdCharacter_frame b) fun _ => rfl)
  case refdCharacter b => exact hacts (.of_frame (refdCharacter_frame b) fun _ => rfl)
  case refdFramingError => exact hacts (.of_frame (endMessage_frame none) fun _ => rfl)
  case messageWindowExpiry => exact hacts (.of_frame (endMessage_frame none) fun _ => rfl)
  case notionalReferenceSecond => exact hacts (.of_frame notionalSecond_frame fun _ => rfl)
  case ownEdge => exact hacts fun s => (ownEdge_static s).1
  case realign => exact hacts realign_keepsQueue
  case tickStart => exact hacts (.of_frame tickStart_frame fun _ => rfl)
  case strobeEnd => exact hacts (.of_frame strobeEnd_frame fun _ => rfl)
  case kylReadback => exact hacts (.of_frame kylReadback_frame fun _ => rfl)
  case cusPulseEnd => exact hacts fun _ => rfl
  case ownWindowStart => exact hacts (.of_frame openWindow_frame fun _ => rfl)
  case lateSync => exact hacts (.of_frame lateSync_frame fun _ => rfl)
  case syncDriveEnd => exact hacts fun _ => rfl
  case syncEdgeObserved i => exact hacts (.of_frame (observeSync_frame i) fun _ => rfl)
  case deadWindow => exact hacts (.of_frame deadWindow_frame fun _ => rfl)
  case cellDriveStart => exact hacts (.of_frame cellStart_frame fun _ => rfl)
  case holdCellSample o => exact hacts (.of_frame (holdSample_frame o) fun _ => rfl)
  case shadowSample o => exact hacts (.of_frame (shadowSample_frame o) fun _ => rfl)
  case flagCellSample o => exact hacts (.of_frame (flagSample_frame o) fun _ => rfl)
  case vacancy => exact hacts (.of_frame vacancy_frame fun _ => rfl)
  case digestCellSample o => exact hacts (.of_frame (digestSample_frame o) fun _ => rfl)
  case passResult => exact hacts (.of_frame passResult_frame fun _ => rfl)
  case assentCellSample o => exact hacts (.of_frame (assentSample_frame o) fun _ => rfl)
  case passDecision => exact hacts (.of_frame passDecision_frame fun _ => rfl)
  case biddingSample o => exact hacts (.of_frame (biddingSample_frame o) fun _ => rfl)
  case bidvalueCellSample o => exact hacts (.of_frame (bidvalueSample_frame o) fun _ => rfl)
  case windowClose => exact hacts (.of_frame windowClose_frame fun _ => rfl)
  case cliFrame bytes => exact hacts (cliFrame_keepsQueue bytes)
  case cliCharacter b => exact hacts (cliCharacter_keepsQueue b)
  case cliLengthOverrun b => exact hacts (cliCharacter_keepsQueue b)
  case cliFramingError => exact hacts cliFramingError_keepsQueue
  case cliGapTimeout => exact hacts cliGapTimeout_keepsQueue
  case responseEnd i => exact hacts (responseEnd_keepsQueue i)
  all_goals exact hacts (command_keepsQueue _)

/-- A row of supply, RSTN, the start interval or the keying bus acts in every state; what it does leaves the queue alone. -/
theorem exec_of_takenAlways (c : Instr) (hc : takenAlways c = true) :
    ∃ f, KeepsQueue f ∧ ∀ s, exec c s = .next (f s) := by
  cases c
  case powerOn => exact ⟨powerOn, powerOnValues_keepsQueue _, fun _ => rfl⟩
  case rstnAssert => exact ⟨rstnAssert, powerOnValues_keepsQueue _, fun _ => rfl⟩
  case rstnRelease => exact ⟨rstnRelease, rstnRelease_keepsQueue, fun _ => rfl⟩
  case supplyLoss => exact ⟨supplyLoss, powerOnValues_keepsQueue _, fun _ => rfl⟩
  case startIntervalEnd i pins => exact ⟨startIntervalEnd i pins, startIntervalEnd_keepsQueue i pins, fun _ => rfl⟩
  case keyingBusChange i l => exact ⟨busChange i l, .of_frame (busChange_frame i l) fun _ => rfl, fun _ => rfl⟩
  all_goals cases hc

/-- Every command is an operation on the state that leaves the queue alone. -/
theorem exec_eq_next (c : Instr) : ∃ f, KeepsQueue f ∧ ∀ s, exec c s = .next (f s) := by
  cases hc : takenAlways c with
  | true => exact exec_of_takenAlways c hc
  | false =>
    obtain ⟨f, hkeeps, hexec⟩ := exec_eq_whenRunning c hc
    exact ⟨_, hkeeps.whenRunning, hexec⟩

end Sys2Proof.Machine

open Sys2Proof Sys2Proof.Machine

/-- Settles O2: every row is an operation that leaves the queue alone (`exec_eq_next`), and one that is not taken always does
nothing while the unit does not run (`exec_eq_whenRunning`). -/
theorem everyCommandAnswersNext : Obligations.EveryCommandAnswersNext := by
  refine ⟨fun c s => ?_, fun c s hc hrun => ?_⟩
  · obtain ⟨f, hkeeps, hexec⟩ := exec_eq_next c
    exact ⟨f s, hexec s, hkeeps s⟩
  · obtain ⟨f, -, hexec⟩ := exec_eq_whenRunning c hc
    rw [hexec, whenRunning_of_not_running f s hrun]
end

section
/-! SUPPORT. The power-on values (R165) as the supply and RSTN rows give them, and the conditions kept by every step at them. -/

namespace Sys2Proof.Machine

theorem rstnRelease_of_low {s : State} (h : s.pwr.rstnLow = true) :
    rstnRelease s = s.powerOnValues ⟨s.pwr.supply, false, s.pwr.supply⟩ := if_pos h

theorem rstnRelease_of_high {s : State} (h : s.pwr.rstnLow = false) : rstnRelease s = s :=
  if_neg (Bool.eq_false_iff.mp h)

/-! ### The state after POWER_ON -/

@[simp] theorem State.reset_desc (i : DescIndex) : State.reset.desc i = Descriptor.reset :=
  Vector.getElem_replicate i.isLt

@[simp] theorem State.reset_laneAt (l : LaneNo) : State.reset.laneAt l = Lane.reset := Vector.getElem_replicate l.isLt

theorem State.reset_peers (p : Fin 8) : State.reset.peers[p] = PeerRow.reset := Vector.getElem_replicate p.isLt

/-! ### The kept conditions at it -/

theorem State.reset_storeOk : State.reset.storeOk := fun i _ => by rw [State.reset_desc]; rfl

/-- The lines are released and the output is none (R126). -/
theorem State.reset_keyingOk : State.reset.keyingOk := State.keyingOk_of_off rfl nofun nofun

theorem State.reset_zoneKept : State.reset.zoneKept := State.zoneKept_of_empty rfl

theorem State.reset_contestKept : State.reset.contestKept := State.contestKept_of_none rfl

/-- No repeat count is taken, and no airing done (R148). -/
theorem Lane.reset_airingsOk : Lane.reset.airingsOk := ⟨fun _ => rfl, nofun⟩

theorem State.reset_airingsOk : State.reset.airingsOk := fun l => by
  rw [State.reset_laneAt]
  exact Lane.reset_airingsOk

theorem State.reset_rotationOk : State.reset.rotationOk := .refl _

theorem State.reset_eventsOk : State.reset.eventsOk := ⟨BitVec.zero_and, BitVec.zero_and⟩

theorem State.reset_logOk : State.reset.logOk := ⟨.nil, Nat.zero_le _⟩

end Sys2Proof.Machine

open Sys2Proof Sys2Proof.Machine

/-- Settles O3: each supply or RSTN row is `State.powerOnValues` or, for a release with RSTN high, nothing; the values are read
off the reset state. -/
theorem supplyAndResetSetPowerOnValues : Obligations.SupplyAndResetSetPowerOnValues := by
  refine ⟨fun s => ⟨fun p => s.powerOnValues p, fun _ => rfl, rfl, rfl, fun hlow => ?_, fun hhigh => ?_, rfl⟩, ?_⟩
  · exact congrArg Host.Outcome.next (rstnRelease_of_low hlow)
  · exact congrArg Host.Outcome.next (rstnRelease_of_high hhigh)
  · exact ⟨⟨rfl, rfl, rfl, rfl, rfl, rfl, rfl, rfl, rfl, rfl, rfl⟩, rfl, State.reset_desc, State.reset_laneAt, rfl, rfl, rfl, rfl,
      rfl, rfl, rfl, rfl, State.reset_peers, rfl, rfl, ⟨rfl, rfl, rfl, rfl, rfl, rfl, rfl, rfl, rfl, rfl, rfl⟩, rfl, rfl, rfl, rfl,
      rfl, rfl, rfl, rfl, rfl, rfl, rfl, rfl⟩

/-- Settles O60, from one lemma for each condition, or for each pair of conditions kept together. -/
theorem conditionsHoldAtReset : Obligations.ConditionsHoldAtReset := by
  obtain ⟨hzone, hpast⟩ := (State.zoneKept_iff _).mp State.reset_zoneKept
  obtain ⟨hrecords, hpairs⟩ := (State.contestKept_iff _).mp State.reset_contestKept
  exact ⟨State.reset_storeOk, State.reset_keyingOk, hzone, hpast, hrecords, hpairs, State.reset_airingsOk,
    State.reset_rotationOk, State.reset_eventsOk, State.reset_logOk⟩
end

section
/-! SUPPORT. The end of the start interval (R166, R167): the values held from the strap pins, the self row, and the unit that then
runs. -/

namespace Sys2Proof.Machine

/-- A strapped offset is held within -48 and +56 quarter hours (R37). -/
theorem clampOffset_eq (z : Int) : clampOffset z = max (-48) (min 56 z) := by
  unfold clampOffset
  split
  · omega
  · split <;> omega

/-- Position and precedence are held as the pins count them (Table 10.1). -/
theorem Straps.ofPins_bid (p : StrapPins) :
    (Straps.ofPins p).position.val = p.pos.toNat ∧ (Straps.ofPins p).precedence.val = p.prec.toNat := ⟨rfl, rfl⟩

theorem selfRow_getElem (position : Fin 8) (peers : Vector PeerRow 8) (p : Fin 8) :
    (selfRow position peers)[p] = { peers[p] with self := decide (p = position) } :=
  Vector.getElem_ofFn p.isLt

/-- The strapped position's row is the self row (R80, R166). -/
theorem selfRow_ofPins_getElem (pins : StrapPins) (peers : Vector PeerRow 8) (p : Fin 8) :
    (selfRow (Straps.ofPins pins).position peers)[p] = { peers[p] with self := decide (p.val = pins.pos.toNat) } := by
  simp only [selfRow_getElem, Fin.ext_iff, Straps.ofPins_bid]

/-- The unit as the end of the start interval leaves it, with supply up and RSTN high. -/
def State.started (t : Instant) (pins : StrapPins) (s : State) : State :=
  { s with
    pwr := ⟨true, false, false⟩
    straps := .ofPins pins
    trk := s.trk.firstEdge t
    peers := selfRow (Straps.ofPins pins).position s.peers
    keying := { s.keying with nextTick := 0 }
    win := Window.neutral .waiting }

theorem startIntervalEnd_of_starting (t : Instant) (pins : StrapPins) {s : State} (h : s.pwr = ⟨true, false, true⟩) :
    startIntervalEnd t pins s = s.started t pins := by
  simp [startIntervalEnd, State.started, h]

end Sys2Proof.Machine

open Sys2Proof Sys2Proof.Machine

/-- Settles O4: the row makes of the state `State.started`, whose parts are the pins' values, the self row and the first edge. -/
theorem startIntervalEndBeginsOperation : Obligations.StartIntervalEndBeginsOperation := by
  intro t pins s hstarting
  obtain ⟨hposition, hprecedence⟩ := Straps.ofPins_bid pins
  exact ⟨s.started t pins, congrArg Host.Outcome.next (startIntervalEnd_of_starting t pins hstarting), rfl, hposition,
    hprecedence, rfl, clampOffset_eq _, rfl, selfRow_ofPins_getElem pins s.peers, rfl, rfl⟩
end

section
/-! SUPPORT. The end of a response (R175) and the performance of RESTART (R170): what becomes of the lines, the window, the lanes and
the peer table. -/

namespace Sys2Proof.Machine

theorem exec_responseEnd_of_running (t : Instant) {s : State} (h : s.running = true) :
    exec (.responseEnd t) s = .next (responseEnd t s) := congrArg Host.Outcome.next (whenRunning_of_running _ s h)

theorem responseEnd_of_plain (t : Instant) {s : State} {f : List Byte} (hrx : s.link.rx = .responding f)
    (hwaits : s.link.restartPending = false) : responseEnd t s = s.setRx .empty := by
  simp [responseEnd, hrx, hwaits]

theorem responseEnd_of_restart (t : Instant) {s : State} {f : List Byte} (hrx : s.link.rx = .responding f)
    (hwaits : s.link.restartPending = true) : responseEnd t s = restart t s := by
  simp [responseEnd, hrx, hwaits]

/-! ### RESTART, part by part -/

/-- At a RESTART no window is open, and no line of the concord bus is driven (R71). -/
theorem Window.restarted_released (w : Window) :
    w.restarted.phase ≠ .opened ∧ w.restarted.pullCca = false ∧ w.restarted.driveCco = false
      ∧ w.restarted.syncDriving = false := by
  unfold Window.restarted
  split
  next hwaiting => exact ⟨hwaiting ▸ nofun, rfl, rfl, rfl⟩
  all_goals exact ⟨nofun, rfl, rfl, rfl⟩

theorem restartedPeers_getElem (peers : Vector PeerRow 8) (p : Fin 8) :
    (restartedPeers peers)[p] = ⟨false, false, 0, none, (peers[p]).self⟩ := Vector.getElem_map _ p.isLt

theorem restart_laneAt (t : Instant) (s : State) (l : LaneNo) :
    (restart t s).laneAt l = { s.laneAt l with state := .stopped } := Vector.getElem_map _ l.isLt

/-- The lines are released in the middle of a tick or a strobe (R125, R170). -/
theorem restart_keying (t : Instant) (s : State) :
    (restart t s).keying = { s.keying with out := .none, own := linesReleased, loop := linesReleased } :=
  congrArg (fun k : Keying => { k with out := .none }) (s.releaseKeying_keying t)

/-- A RESTART keeps the store, the zone table, the straps, the local requests and the supply (R170). -/
theorem restart_keeps (t : Instant) (s : State) :
    (restart t s).store = s.store ∧ (restart t s).zone = s.zone ∧ (restart t s).straps = s.straps
      ∧ (restart t s).req = s.req ∧ (restart t s).pwr = s.pwr :=
  ⟨s.releaseKeying_store t, s.releaseKeying_zone t, s.releaseKeying_straps t, s.releaseKeying_req t, s.releaseKeying_pwr t⟩

/-- With no latch set ATN is low (R183). -/
theorem State.atn_of_clear {s : State} (h : s.ev.latches = 0) : s.atn = false := by
  simp [State.atn, h]

end Sys2Proof.Machine

open Sys2Proof Sys2Proof.Machine

/-- Settles O45: RESTART is a frame taken in EMPTY, the end of a response is one of two equations, and each block's part of
`restart` is a lemma or its definition. -/
theorem responseEndAndRestart : Obligations.ResponseEndAndRestart := by
  refine ⟨fun s hhears => ?_, fun t f s hrun hrx hwaits => ?_, fun t f s hrun hrx hwaits => ⟨restart t s, ?_, ?_⟩⟩
  · exact congrArg Host.Outcome.next (command_of_hears .restart s hhears)
  · rw [exec_responseEnd_of_running t hrun, responseEnd_of_plain t hrx hwaits]
  · rw [exec_responseEnd_of_running t hrun, responseEnd_of_restart t hrx hwaits]
  · obtain ⟨hphase, hcca, hcco, hsync⟩ := s.win.restarted_released
    obtain ⟨hstore, hzone, hstraps, hreq, hpwr⟩ := restart_keeps t s
    have hkeying := restart_keying t s
    exact ⟨rfl, rfl, rfl, rfl, rfl, rfl, rfl, congrArg Keying.out hkeying, congrArg Keying.own hkeying,
      congrArg Keying.loop hkeying, hphase, hcca, hcco, hsync, rfl, restartedPeers_getElem s.peers, rfl, rfl, rfl, rfl,
      restart_laneAt t s, rfl, rfl, hstore, hzone, hstraps, hreq, hpwr, rfl, State.atn_of_clear rfl, rfl⟩
end

section
/-! SUPPORT. What a step does, by the shape of the queue. -/

namespace Sys2Proof.Machine

/-- The command runs on a state whose queue no longer holds it. -/
theorem step_of_pending_cons {s : State} {c : Instr} {rest : List Instr} (h : s.pending = c :: rest) :
    step s = exec c { s with pending := rest } := by
  rw [step, h]

theorem step_of_pending_nil {s : State} (h : s.pending = []) : step s = .next s := by
  rw [step, h]

end Sys2Proof.Machine

open Sys2Proof Sys2Proof.Machine

/-- Settles O1: the queue has a command at its front or is empty, and each case is an equation of `step`. -/
theorem stepRunsTheFrontCommand : Obligations.StepRunsTheFrontCommand :=
  ⟨fun _ _ _ => step_of_pending_cons rfl, fun _ hempty => step_of_pending_nil hempty⟩
end
